-- ==== Sys2Proof/Word.lean ====
section
/-! DEFINITION. The widths of the block: ROM words and masks of 16 bits, the 12-bit micro-program
counter, and the writing of one bit (00_scope.md R10, R14, R23; 10_state.md R42, R46). -/

namespace Sys2Proof

/-- A ROM word: every micro-op is one 16-bit word (R100). -/
abbrev Word := BitVec 16

/-- A button mask or a selector: an unsigned 16-bit value (W_MASK = 16, R10, R12). -/
abbrev Mask := BitVec 16

/-- A ROM word address, the width of upc and of a jump target (R42, R105). -/
abbrev RomAddr := BitVec 12

/-- A logical key code in the machine's own state, at the reference width W_KEY = 16 (R14). The spec takes
KeyCode as a type parameter with decidable equality: Machine/Keys.lean runs the block for any such type, over
these codes (DESIGN CHOICE, log entry 7). No micro-op computes on a key. -/
abbrev KeyCode := BitVec 16

/-- A pin identity: "an opaque platform-specific identifier for a single GPIO line" (R11). It is only
ever compared, so a natural number names it (log entry 8). -/
abbrev PinId := Nat

/-- A process exit code (R17, R18, R50; log entry 8). -/
abbrev ExitCode := Nat

/-- A duration in microseconds, the granularity the source gives the host's delay (R212, R254; log
entry 8). -/
abbrev Micros := Nat

end Sys2Proof
end

