-- ==== Sys2Proof/Config.lean ====
section
/-! DEFINITION. The configuration of one run (00_scope.md R8 to R22): pins, mapping tables, delay, policy
parameters and ROM. The spec calls these "configuration, not state"; the machine's state record carries them
in a field that no step writes (log entry 1), so that a statement about every state is a statement about
every configuration. The free values of the host's answers stand here too, as constants without a body. -/

namespace Sys2Proof

/-- A pin level. For arithmetic LOW is 0 and HIGH is 1 (R24). -/
inductive Level where
  | low
  | high
  deriving DecidableEq, Repr, Inhabited

/-- The direction of a pin (R45). -/
inductive PinMode where
  | unconfigured
  | input
  | output
  deriving DecidableEq, Repr, Inhabited

/-- The pad index p ∈ {0, 1}; pad 0 is the source's "controller 1" (R8). -/
inductive Pad where
  | pad0
  | pad1
  deriving DecidableEq, Repr, Inhabited

/-- The pad that is not p. -/
def Pad.other : Pad → Pad
  | .pad0 => .pad1
  | .pad1 => .pad0

/-- The four pins by the part they play: P_PIN_CLK, P_PIN_STB, P_PIN_DATA[0], P_PIN_DATA[1] (R11). -/
inductive PinRole where
  | clk
  | stb
  | data (p : Pad)
  deriving DecidableEq, Repr

/-- The host's answer to a request that can fail: OK or FAIL (R25). -/
inductive Ack where
  | ok
  | fail
  deriving DecidableEq, Repr, Inhabited

/-- P_SYNC_MODE: one marker after a pad's 12 key events, or one after every key event (R16). -/
inductive SyncMode where
  | perPad
  | perKey
  deriving DecidableEq, Repr

/-- A mapping-table entry (sel, key) (R12, R81). -/
structure TableEntry where
  sel : Mask
  key : KeyCode
  deriving DecidableEq, Repr

/-- The configuration of a run, R8 to R22. P_PADS = 2 and P_BITS = 12 are in the types: two tables of
exactly 12 entries (R9, R81). -/
structure Config where
  /-- P_PIN_CLK (R11). -/
  pinClk : PinId
  /-- P_PIN_STB (R11). -/
  pinStb : PinId
  /-- P_PIN_DATA[0] (R11). -/
  pinData0 : PinId
  /-- P_PIN_DATA[1] (R11). -/
  pinData1 : PinId
  /-- P_TABLE[0] (R12). -/
  table0 : Vector TableEntry 12
  /-- P_TABLE[1] (R12). -/
  table1 : Vector TableEntry 12
  /-- P_CYCLE_DELAY (R13). -/
  cycleDelay : Micros
  /-- P_TRAILING_CLOCK (R15). It shapes the reference micro-program only. -/
  trailingClock : Bool
  /-- P_SYNC_MODE (R16). It shapes the reference micro-program only. -/
  syncMode : SyncMode
  /-- P_EXIT_FAIL (R17). -/
  exitFail : ExitCode
  /-- P_EXIT_KILL (R18). -/
  exitKill : ExitCode
  /-- P_FAIL_LIMIT; none is INF (R19). -/
  failLimit : Option Nat
  /-- P_CANCEL_PRESENT (R20). -/
  cancelPresent : Bool
  /-- ROM; L_ROM is its length (R21). -/
  rom : List Word
  deriving DecidableEq, Repr

/-- FREE VALUE: the answer to the k-th GpioSetup request of a run (R25: a draw the block does not choose). -/
opaque Config.freeGpio : Nat → Ack

/-- FREE VALUE: the answer to the k-th SinkOpen request (R25). -/
opaque Config.freeSink : Nat → Ack

/-- FREE VALUE: the level the k-th read of pad p's data line returns (R25, R86(b)). -/
opaque Config.freeData : Pad → Nat → Level

/-- FREE VALUE: the result of the k-th event write (R25). -/
opaque Config.freeEmit : Nat → Ack

/-- FREE VALUE: the cancellation input at its k-th sampling (R25). -/
opaque Config.freeCancel : Nat → Bool

/-- FREE VALUE: P_EXIT_KILL, the exit status after a kill, which no source gives (R18). -/
opaque Config.freeExitKill : ExitCode

end Sys2Proof
end

