-- ==== Sys2Proof/Syntax.lean ====
section
/-! DEFINITION. The micro-operations of SNESDEC-u: one constructor per row of spec/opcode_table.json
(30_encoding.md R101, R102). -/

namespace Sys2Proof

/-- A micro-op. Operands keep the width of their encoded fields: P one bit (a pad), N four bits, T twelve
bits (R101). N ∈ {12, …, 15} is reserved (R104), which WellFormed refuses. -/
inductive Instr where
  /-- INIT, 0x1000 (R160). -/
  | init
  /-- CLKL, 0x2000 (R121). -/
  | clkl
  /-- CLKH, 0x2001 (R120). -/
  | clkh
  /-- STBL, 0x2100 (R123). -/
  | stbl
  /-- STBH, 0x2101 (R122). -/
  | stbh
  /-- SMP p, n: 0x3000 | p<<8 | n (R124). -/
  | smp (p : Pad) (n : BitVec 4)
  /-- EMK p, n: 0x4000 | p<<8 | n (R144). -/
  | emk (p : Pad) (n : BitVec 4)
  /-- SYNC, 0x5000 (R145). -/
  | sync
  /-- CHKC, 0x6000 (R161). -/
  | chkc
  /-- WAIT, 0x7000 (R162). -/
  | wait
  /-- JMP t: 0x8000 | t (R163). -/
  | jmp (t : RomAddr)
  deriving DecidableEq, Repr

/-- The mnemonic of a micro-op, as spec/opcode_table.json and R108 write it. -/
def Instr.mnemonic : Instr → String
  | .init => "INIT"
  | .clkl => "CLKL"
  | .clkh => "CLKH"
  | .stbl => "STBL"
  | .stbh => "STBH"
  | .smp _ _ => "SMP"
  | .emk _ _ => "EMK"
  | .sync => "SYNC"
  | .chkc => "CHKC"
  | .wait => "WAIT"
  | .jmp _ => "JMP"

end Sys2Proof
end

