-- ==== Sys2Proof/WellFormed.lean ====
section
/-! DEFINITION. What a well-formed micro-op is (30_encoding.md R104, R106(d)) and what a well-formed
configuration is (00_scope.md R22, with the ranges of R13, R17 and R19). -/

namespace Sys2Proof

/-- A PN index names a bit or an entry 0..11; 12..15 are reserved (R104). -/
def indexOk (n : BitVec 4) : Bool := decide (n.toNat ≤ 11)

/-- The micro-ops that exist: every constructor, with the PN index in 0..11 (R104, R106(d)). -/
def Instr.wf : Instr → Bool
  | .init => true
  | .clkl => true
  | .clkh => true
  | .stbl => true
  | .stbh => true
  | .smp _ n => indexOk n
  | .emk _ n => indexOk n
  | .sync => true
  | .chkc => true
  | .wait => true
  | .jmp _ => true

/-- R22(a): the four pins of R11 are pairwise distinct. -/
def Config.pinsDistinct (c : Config) : Bool :=
  c.pinClk != c.pinStb && c.pinClk != c.pinData0 && c.pinClk != c.pinData1
    && c.pinStb != c.pinData0 && c.pinStb != c.pinData1 && c.pinData0 != c.pinData1

/-- R22(b): every selector is non-zero. -/
def Config.selectorsNonzero (c : Config) : Bool :=
  (c.table0.toList ++ c.table1.toList).all fun e => e.sel != 0#16

/-- R22(c): no key appears in both tables. -/
def Config.keysDisjoint (c : Config) : Bool :=
  c.table0.toList.all fun e => c.table1.toList.all fun f => e.key != f.key

/-- R22(d): L_ROM is in 1..4096. -/
def Config.romSizeOk (c : Config) : Bool :=
  decide (1 ≤ c.rom.length) && decide (c.rom.length ≤ 4096)

/-- A configuration is well formed when (a) to (d) of R22 hold. -/
def Config.wf (c : Config) : Bool :=
  c.pinsDistinct && c.selectorsNonzero && c.keysDisjoint && c.romSizeOk

/-- R13: 10 ms ≤ P_CYCLE_DELAY < 100 ms; "A delay outside it is refused" (92_eei_decisions.md D10). -/
def Config.delayInRange (c : Config) : Bool :=
  decide (10000 ≤ c.cycleDelay) && decide (c.cycleDelay < 100000)

/-- R17: P_EXIT_FAIL is any non-zero value. -/
def Config.exitFailNonzero (c : Config) : Bool := decide (c.exitFail ≠ 0)

/-- R19: P_FAIL_LIMIT ∈ {1, 2, 3, ...} ∪ {INF}. -/
def Config.failLimitPositive (c : Config) : Bool :=
  match c.failLimit with
  | none => true
  | some limit => decide (1 ≤ limit)

/-- Every parameter lies in the range its own rule gives it (R13, R17, R19). -/
def Config.inRange (c : Config) : Bool :=
  c.delayInRange && c.exitFailNonzero && c.failLimitPositive

/-- The configurations the model runs: well formed by R22, with every parameter in its range (log entry 6). -/
def Config.accepted (c : Config) : Bool := c.wf && c.inRange

end Sys2Proof
end

