-- ==== Sys2Proof/Decode.lean ====
section
/-! DEFINITION. The decoder, total on 16-bit words and refusing by name (30_encoding.md R100 to R107), the
encoder written from the same formats, and the rows of spec/opcode_table.json as data. -/

namespace Sys2Proof

/-- Why a word is illegal: the case of R106 that holds. -/
inductive Illegal where
  /-- R106(a): OP ∈ {0x0, 0x9, …, 0xF}. -/
  | reservedOp
  /-- R106(b): format Z with w[11:0] ≠ 0. -/
  | formatZ
  /-- R106(c): format W with w[11:9] ≠ 0 or w[7:1] ≠ 0. -/
  | formatW
  /-- R106(d): format PN with w[11:9] ≠ 0 or w[7:4] ≠ 0. -/
  | formatPN
  /-- R106(d): format PN with N ≥ 12. -/
  | index
  deriving DecidableEq, Repr

/-- OP = w[15:12] (R101). -/
def fieldOp (w : Word) : BitVec 4 := w.extractLsb' 12 4
/-- w[11:0]: the operand bits of format Z, and T of format J (R101). -/
def fieldT (w : Word) : BitVec 12 := w.extractLsb' 0 12
/-- w[11:9], zero in formats W and PN (R101). -/
def fieldHigh (w : Word) : BitVec 3 := w.extractLsb' 9 3
/-- S of format W and P of format PN: w[8] (R103, R104). -/
def fieldP (w : Word) : Bool := w.getLsbD 8
/-- w[7:1], zero in format W (R101). -/
def fieldMidW (w : Word) : BitVec 7 := w.extractLsb' 1 7
/-- w[7:4], zero in format PN (R101). -/
def fieldMidPN (w : Word) : BitVec 4 := w.extractLsb' 4 4
/-- V = w[0] (R103). -/
def fieldV (w : Word) : Bool := w.getLsbD 0
/-- N = w[3:0] (R104). -/
def fieldN (w : Word) : BitVec 4 := w.extractLsb' 0 4

/-- The pad a P bit names (R104). -/
def Pad.ofBit (b : Bool) : Pad := if b then .pad1 else .pad0

/-- The P bit of a pad (R104). -/
def Pad.toBit : Pad → Bool
  | .pad0 => false
  | .pad1 => true

/-- Format Z: no operand (R101, R106(b)). -/
def decodeZ (w : Word) (i : Instr) : Except Illegal Instr :=
  if fieldT w = 0#12 then .ok i else .error .formatZ

/-- Format W: S selects the pin and V the level (R103, R106(c)). -/
def decodeW (w : Word) : Except Illegal Instr :=
  if fieldHigh w = 0#3 ∧ fieldMidW w = 0#7 then
    match fieldP w, fieldV w with
    | false, false => .ok .clkl
    | false, true => .ok .clkh
    | true, false => .ok .stbl
    | true, true => .ok .stbh
  else .error .formatW

/-- Format PN: P selects the pad, N the bit or entry (R104, R106(d)). -/
def decodePN (w : Word) (mk : Pad → BitVec 4 → Instr) : Except Illegal Instr :=
  if fieldHigh w = 0#3 ∧ fieldMidPN w = 0#4 then
    if indexOk (fieldN w) then .ok (mk (Pad.ofBit (fieldP w)) (fieldN w)) else .error .index
  else .error .formatPN

/-- The micro-op a word stands for, or why it is illegal (R102, R106). Decoding reads no state (R107). -/
def decode (w : Word) : Except Illegal Instr :=
  match (fieldOp w).toNat with
  | 0x1 => decodeZ w .init
  | 0x2 => decodeW w
  | 0x3 => decodePN w .smp
  | 0x4 => decodePN w .emk
  | 0x5 => decodeZ w .sync
  | 0x6 => decodeZ w .chkc
  | 0x7 => decodeZ w .wait
  | 0x8 => .ok (.jmp (fieldT w))
  | _ => .error .reservedOp

/-- A word of format PN: OP, P and N in their places (R101). -/
def encodePN (op : Word) (p : Pad) (n : BitVec 4) : Word :=
  op ||| ((BitVec.ofBool p.toBit).setWidth 16 <<< 8) ||| n.setWidth 16

/-- The word of a micro-op (R102). -/
def encode : Instr → Word
  | .init => 0x1000#16
  | .clkl => 0x2000#16
  | .clkh => 0x2001#16
  | .stbl => 0x2100#16
  | .stbh => 0x2101#16
  | .smp p n => encodePN 0x3000#16 p n
  | .emk p n => encodePN 0x4000#16 p n
  | .sync => 0x5000#16
  | .chkc => 0x6000#16
  | .wait => 0x7000#16
  | .jmp t => 0x8000#16 ||| t.setWidth 16

/-- A row of spec/opcode_table.json: a word w is of the row when w &&& mask = pattern (and, for SMP and EMK,
N ≤ 11). -/
structure OpcodeRow where
  mnemonic : String
  pattern : Word
  mask : Word
  deriving DecidableEq, Repr

/-- The eleven rows of spec/opcode_table.json, in its order. -/
def opcodeTable : List OpcodeRow :=
  [⟨"INIT", 0x1000#16, 0xFFFF#16⟩, ⟨"CLKL", 0x2000#16, 0xFFFF#16⟩, ⟨"CLKH", 0x2001#16, 0xFFFF#16⟩,
   ⟨"STBL", 0x2100#16, 0xFFFF#16⟩, ⟨"STBH", 0x2101#16, 0xFFFF#16⟩, ⟨"SMP", 0x3000#16, 0xFEF0#16⟩,
   ⟨"EMK", 0x4000#16, 0xFEF0#16⟩, ⟨"SYNC", 0x5000#16, 0xFFFF#16⟩, ⟨"CHKC", 0x6000#16, 0xFFFF#16⟩,
   ⟨"WAIT", 0x7000#16, 0xFFFF#16⟩, ⟨"JMP", 0x8000#16, 0xF000#16⟩]

/-- The row a micro-op belongs to. -/
def Instr.row : Instr → OpcodeRow
  | .init => ⟨"INIT", 0x1000#16, 0xFFFF#16⟩
  | .clkl => ⟨"CLKL", 0x2000#16, 0xFFFF#16⟩
  | .clkh => ⟨"CLKH", 0x2001#16, 0xFFFF#16⟩
  | .stbl => ⟨"STBL", 0x2100#16, 0xFFFF#16⟩
  | .stbh => ⟨"STBH", 0x2101#16, 0xFFFF#16⟩
  | .smp _ _ => ⟨"SMP", 0x3000#16, 0xFEF0#16⟩
  | .emk _ _ => ⟨"EMK", 0x4000#16, 0xFEF0#16⟩
  | .sync => ⟨"SYNC", 0x5000#16, 0xFFFF#16⟩
  | .chkc => ⟨"CHKC", 0x6000#16, 0xFFFF#16⟩
  | .wait => ⟨"WAIT", 0x7000#16, 0xFFFF#16⟩
  | .jmp _ => ⟨"JMP", 0x8000#16, 0xF000#16⟩

/-- The ROM word that the host's table numbering (nbits, w) lays out: the first word holds bits 15..0. Every
micro-op is one word (R100), so later bits belong to no part of it (log entry 16). -/
def tableWord (nbits w : Nat) : Word := BitVec.ofNat 16 (w % 2 ^ nbits)

/-- The micro-op the decoder reads from a word numbered as spec/opcode_table.json numbers it. -/
def decodeTableWord (nbits w : Nat) : Option Instr := (decode (tableWord nbits w)).toOption

end Sys2Proof
end

