-- ==== Sys2Proof/Machine/Assembly.lean ====
section
/-! DEFINITION. Assembler text and pseudo-instructions (30_encoding.md R108, R109) and the reference
micro-program RefROM (43_reference_sequence.md R180, R181). -/

namespace Sys2Proof.Machine

/-- PULSE_STB: STBH ; STBL (R109). -/
def pulseStb : List Instr := [.stbh, .stbl]

/-- PULSE_CLK: CLKH ; CLKL (R109). -/
def pulseClk : List Instr := [.clkh, .clkl]

/-- The indices 1..11 in order. -/
def laterIndices : List (BitVec 4) :=
  [1#4, 2#4, 3#4, 4#4, 5#4, 6#4, 7#4, 8#4, 9#4, 10#4, 11#4]

/-- The bit and entry indices 0..11 in order (R9, R104). -/
def allIndices : List (BitVec 4) := 0#4 :: laterIndices

/-- PULSE_CLK ; SMP p, i: one of the eleven repeated parts of a decode (R109). -/
def shiftAndSample (p : Pad) (i : BitVec 4) : List Instr := pulseClk ++ [.smp p i]

/-- The trailing PULSE_CLK, only if P_TRAILING_CLOCK = 1 (R15, R109). -/
def trailingPulse (tc : Bool) : List Instr := if tc then pulseClk else []

/-- DECODE p (R109). -/
def decodeOps (tc : Bool) (p : Pad) : List Instr :=
  pulseStb ++ [.smp p 0#4] ++ laterIndices.flatMap (shiftAndSample p) ++ trailingPulse tc

/-- EMITPAD p (R109). -/
def emitPadOps (sm : SyncMode) (p : Pad) : List Instr :=
  match sm with
  | .perPad => allIndices.map (Instr.emk p) ++ [.sync]
  | .perKey => allIndices.flatMap fun j => [.emk p j, .sync]

/-- One poll cycle of the reference micro-program, up to its JMP (R180, R183). -/
def pollCycleOps (tc : Bool) (sm : SyncMode) : List Instr :=
  decodeOps tc .pad0 ++ emitPadOps sm .pad0 ++ decodeOps tc .pad1 ++ emitPadOps sm .pad1 ++ [.chkc, .wait]

/-- RefROM(tc, sm) as micro-ops: INIT, then the cycle, then JMP cycle with cycle = 1 (R180). -/
def refProgram (tc : Bool) (sm : SyncMode) : List Instr :=
  [.init] ++ pollCycleOps tc sm ++ [.jmp 1#12]

/-- RefROM(tc, sm) (R21, R180, R181). -/
def refRom (tc : Bool) (sm : SyncMode) : List Word := (refProgram tc sm).map encode

/-! ## Assembler (R108; log entry 19) -/

/-- What one line of assembler text asks for (R108, R109). -/
inductive AsmItem where
  | op (i : Instr)
  | jmpTo (label : String)
  | pulseStb
  | pulseClk
  | decode (p : Pad)
  | emitPad (p : Pad)
  deriving DecidableEq, Repr

/-- A line: an optional label, which stands for the address of the next micro-op, and an optional item
(R108). -/
structure AsmLine where
  label : Option String
  item : Option AsmItem
  deriving DecidableEq, Repr

/-- A micro-op, or a JMP whose label has no address yet. -/
inductive AsmOp where
  | op (i : Instr)
  | jmpTo (label : String)
  deriving DecidableEq, Repr

/-- The micro-ops an item expands to (R109). -/
def AsmItem.expand (tc : Bool) (sm : SyncMode) : AsmItem → List AsmOp
  | .op i => [.op i]
  | .jmpTo l => [.jmpTo l]
  | .pulseStb => Machine.pulseStb.map .op
  | .pulseClk => Machine.pulseClk.map .op
  | .decode p => (decodeOps tc p).map .op
  | .emitPad p => (emitPadOps sm p).map .op

/-- The micro-ops a line expands to. -/
def AsmLine.expand (tc : Bool) (sm : SyncMode) (line : AsmLine) : List AsmOp :=
  match line.item with
  | none => []
  | some item => item.expand tc sm

/-- The addresses the labels stand for, from address a on (R108). DESIGN CHOICE: a label that no micro-op follows
stands for the address after the last one (log entry 19). -/
def labelAddresses (tc : Bool) (sm : SyncMode) (a : Nat) : List AsmLine → List (String × Nat)
  | [] => []
  | line :: rest =>
    (match line.label with
      | none => []
      | some l => [(l, a)]) ++ labelAddresses tc sm (a + (line.expand tc sm).length) rest

/-- The address a label stands for, if it can be a jump target (R105). DESIGN CHOICE: where two lines carry the
same label, on which the spec is silent, it is the address of the first, and no error is reported (log entry 19). -/
def addressOf (labels : List (String × Nat)) (l : String) : Option RomAddr :=
  match labels.lookup l with
  | some a => if a < 4096 then some (BitVec.ofNat 12 a) else none
  | none => none

/-- A micro-op with its label resolved. -/
def AsmOp.resolve (labels : List (String × Nat)) : AsmOp → Option Instr
  | .op i => some i
  | .jmpTo l => (addressOf labels l).map .jmp

/-- The micro-program of a list of lines. -/
def assemble (tc : Bool) (sm : SyncMode) (lines : List AsmLine) : Option (List Instr) :=
  (lines.flatMap (AsmLine.expand tc sm)).mapM (AsmOp.resolve (labelAddresses tc sm 0 lines))

/-- The words of a text (R108). DESIGN CHOICE: blanks, tabs and commas part them alike, wherever they stand and
however many (log entry 19). -/
def tokensFrom (current : List Char) : List Char → List (List Char)
  | [] => if current.isEmpty then [] else [current.reverse]
  | c :: rest =>
    if c == ' ' || c == '\t' || c == ',' then
      if current.isEmpty then tokensFrom [] rest else current.reverse :: tokensFrom [] rest
    else tokensFrom (c :: current) rest

/-- The words of a line, without its comment: `;` starts a comment (R108). -/
def tokens (line : List Char) : List (List Char) := tokensFrom [] (line.takeWhile (· != ';'))

/-- A decimal number (R108), given the value of the digits read so far. -/
def decimalFrom (value : Nat) : List Char → Option Nat
  | [] => some value
  | c :: rest =>
    if '0'.toNat ≤ c.toNat ∧ c.toNat ≤ '9'.toNat then decimalFrom (10 * value + (c.toNat - '0'.toNat)) rest
    else none

/-- A decimal operand (R108). DESIGN CHOICE: zeros may lead, so that `SMP 0, 007` is read (log entry 19). -/
def decimal (word : List Char) : Option Nat := if word.isEmpty then none else decimalFrom 0 word

/-- A pad operand, 0 or 1 (R108). -/
def padOperand (word : List Char) : Option Pad :=
  match decimal word with
  | some 0 => some .pad0
  | some 1 => some .pad1
  | _ => none

/-- A bit or entry operand, 0..11 (R108). -/
def indexOperand (word : List Char) : Option (BitVec 4) :=
  match decimal word with
  | some n => if n ≤ 11 then some (BitVec.ofNat 4 n) else none
  | none => none

/-- An item without operands, by its mnemonic (R108, R109). DESIGN CHOICE: mnemonics are in capitals (log entry 19). -/
def plainItem (mnemonic : String) : Option AsmItem :=
  match mnemonic with
  | "INIT" => some (.op .init)
  | "CLKL" => some (.op .clkl)
  | "CLKH" => some (.op .clkh)
  | "STBL" => some (.op .stbl)
  | "STBH" => some (.op .stbh)
  | "SYNC" => some (.op .sync)
  | "CHKC" => some (.op .chkc)
  | "WAIT" => some (.op .wait)
  | "PULSE_STB" => some .pulseStb
  | "PULSE_CLK" => some .pulseClk
  | _ => none

/-- An item with one operand: JMP takes an address or a label (R108). DESIGN CHOICE: an operand of digits only is
an address, though a line may carry it as a label (log entry 19). -/
def unaryItem (mnemonic : String) (word : List Char) : Option AsmItem :=
  match mnemonic with
  | "JMP" =>
    match decimal word with
    | some a => if a < 4096 then some (.op (.jmp (BitVec.ofNat 12 a))) else none
    | none => some (.jmpTo (String.ofList word))
  | "DECODE" => (padOperand word).map .decode
  | "EMITPAD" => (padOperand word).map .emitPad
  | _ => none

/-- An item with a pad and an index (R108). -/
def binaryItem (mnemonic : String) (p n : List Char) : Option AsmItem :=
  match mnemonic, padOperand p, indexOperand n with
  | "SMP", some p, some n => some (.op (.smp p n))
  | "EMK", some p, some n => some (.op (.emk p n))
  | _, _, _ => none

/-- The item of a line's words after its label; none where they are no assembler text. DESIGN CHOICE: a line may
hold no item, with or without a label (log entry 19). -/
def itemOf : List (List Char) → Option (Option AsmItem)
  | [] => some none
  | [m] => (plainItem (String.ofList m)).map some
  | [m, x] => (unaryItem (String.ofList m) x).map some
  | [m, x, y] => (binaryItem (String.ofList m) x y).map some
  | _ => none

/-- The line a text stands for: `name:` at its start is a label (R108). DESIGN CHOICE, where the spec is silent
(log entry 19): blanks may stand before a label, so that ` loop: STBH` carries the label `loop`; a blank must follow
the colon, so that `loop:STBH` is refused; a line has at most one label; and `:` alone is a label without letters. -/
def parseLine (line : String) : Option AsmLine :=
  match tokens line.toList with
  | [] => some ⟨none, none⟩
  | word :: rest =>
    if word.getLast? = some ':' then
      (itemOf rest).map (AsmLine.mk (some (String.ofList word.dropLast)))
    else (itemOf (word :: rest)).map (AsmLine.mk none)

/-- The ROM a text assembles to (R108, R109). -/
def assembleText (tc : Bool) (sm : SyncMode) (text : List String) : Option (List Word) :=
  (text.mapM parseLine).bind fun lines => (assemble tc sm lines).map (List.map encode)

/-- The assembly text of the reference micro-program, line for line as R180 prints it. -/
def refText : List String :=
  ["        INIT                 ; address 0",
   "cycle:  DECODE 0             ; controller 1",
   "        EMITPAD 0",
   "        DECODE 1             ; controller 2",
   "        EMITPAD 1",
   "        CHKC                 ; after emission, before delay",
   "        WAIT",
   "        JMP cycle            ; cycle = 1"]

end Sys2Proof.Machine

namespace Sys2Proof

/-- The decimal text of a pad operand (R108). -/
def Pad.asmText : Pad → String
  | .pad0 => "0"
  | .pad1 => "1"

/-- The assembler text of a micro-op (R108). -/
def Instr.asmText (i : Instr) : String :=
  match i with
  | .smp p n => i.mnemonic ++ " " ++ p.asmText ++ ", " ++ toString n.toNat
  | .emk p n => i.mnemonic ++ " " ++ p.asmText ++ ", " ++ toString n.toNat
  | .jmp t => i.mnemonic ++ " " ++ toString t.toNat
  | .init => i.mnemonic
  | .clkl => i.mnemonic
  | .clkh => i.mnemonic
  | .stbl => i.mnemonic
  | .stbh => i.mnemonic
  | .sync => i.mnemonic
  | .chkc => i.mnemonic
  | .wait => i.mnemonic

end Sys2Proof
end

