-- ==== Sys2Proof/Machine/Reference.lean ====
section
/-! DEFINITION. The reference configuration (00_scope.md R15 to R21; 20_memory.md R82; 95_test_vectors.md).
The spec gives its policy parameters, its selectors and its ROM. It leaves the pins, the keys and the delay
OPEN; the values below stand in for those three and are a DESIGN CHOICE (log entry 4). No obligation rests
on them. -/

namespace Sys2Proof.Machine

/-- The single-bit selector of button bit j: 1 << j (R47, R82). -/
def bitSelector (j : Nat) : Mask := 1#16 <<< j

/-- A reference table: entry j tests bit j (R82). Its keys are firstKey, firstKey + 1, … (log entry 4). -/
def referenceTable (firstKey : Nat) : Vector TableEntry 12 :=
  #v[⟨bitSelector 0, BitVec.ofNat 16 firstKey⟩, ⟨bitSelector 1, BitVec.ofNat 16 (firstKey + 1)⟩,
     ⟨bitSelector 2, BitVec.ofNat 16 (firstKey + 2)⟩, ⟨bitSelector 3, BitVec.ofNat 16 (firstKey + 3)⟩,
     ⟨bitSelector 4, BitVec.ofNat 16 (firstKey + 4)⟩, ⟨bitSelector 5, BitVec.ofNat 16 (firstKey + 5)⟩,
     ⟨bitSelector 6, BitVec.ofNat 16 (firstKey + 6)⟩, ⟨bitSelector 7, BitVec.ofNat 16 (firstKey + 7)⟩,
     ⟨bitSelector 8, BitVec.ofNat 16 (firstKey + 8)⟩, ⟨bitSelector 9, BitVec.ofNat 16 (firstKey + 9)⟩,
     ⟨bitSelector 10, BitVec.ofNat 16 (firstKey + 10)⟩, ⟨bitSelector 11, BitVec.ofNat 16 (firstKey + 11)⟩]

/-- The reference configuration: P_TRAILING_CLOCK = 0, P_SYNC_MODE = PER_PAD, P_FAIL_LIMIT = INF,
P_CANCEL_PRESENT = 1, P_EXIT_FAIL = 1, reference selectors, ROM = RefROM(0, PER_PAD). The pins, keys and
delay are the placeholders of log entry 4, and P_EXIT_KILL is a free value (R18). -/
def referenceConfig : Config where
  pinClk := 0
  pinStb := 1
  pinData0 := 2
  pinData1 := 3
  table0 := referenceTable 0
  table1 := referenceTable 12
  cycleDelay := 10000
  trailingClock := false
  syncMode := .perPad
  exitFail := 1
  exitKill := Config.freeExitKill
  failLimit := none
  cancelPresent := true
  rom := refRom false .perPad

end Sys2Proof.Machine
end

