-- ==== Sys2Proof/Machine/State.lean ====
section
/-! DEFINITION. The state vector of 10_state.md R40, as plain data, with the two fields the model adds: the
run's configuration (log entry 1) and the host's coming answers (log entry 2); the reset state
(70_reset_and_hazards.md R240); and the reasons a step can stop (60_exceptions.md R209). -/

namespace Sys2Proof.Machine

/-- The operating mode (R41, R211). -/
inductive Mode where
  | initializing
  | polling
  | terminated
  deriving DecidableEq, Repr

/-- The reason codes of R201. Codes 7 to 15 are never produced, so they have no name here (I26). -/
inductive Reason where
  | none
  | gpioInit
  | sinkInit
  | emit
  | emitLimit
  | cancel
  | kill
  deriving DecidableEq, Repr

/-- An event of TRACE (R53). -/
inductive Event where
  /-- GpioInit(r). -/
  | gpioInit (r : Ack)
  /-- Cfg(pin, mode). -/
  | cfg (pin : PinId) (mode : PinMode)
  /-- SinkInit(r). -/
  | sinkInit (r : Ack)
  /-- Wr(pin, lvl). -/
  | wr (pin : PinId) (lvl : Level)
  /-- Rd(pin, lvl). -/
  | rd (pin : PinId) (lvl : Level)
  /-- Key(key, pressed, r). -/
  | key (key : KeyCode) (pressed : Bool) (r : Ack)
  /-- Sync(r). -/
  | sync (r : Ack)
  /-- Log(code). -/
  | log (code : Reason)
  /-- Cancel(c). -/
  | cancel (c : Bool)
  /-- Delay(d). -/
  | delay (d : Micros)
  /-- Close. -/
  | close
  /-- Exit(code). -/
  | exit (code : ExitCode)
  /-- Killed. -/
  | killed
  deriving DecidableEq, Repr

/-- An input port of the block (R58): the answers the environment will give next, in order, as far as they
are laid down, and how many it has given. Beyond the laid-down answers the answer is a free value (log
entry 2). -/
structure Port (α : Type) where
  pending : List α
  taken : Nat
  deriving DecidableEq, Repr

/-- The environment's side of the input ports (R58, R220). The block never sees more of it than the answers
it draws. kill is the host's choice of a step boundary: none is no kill, some n is a kill at the boundary
after n more steps (R207, log entry 3). -/
structure Env where
  gpio : Port Ack
  sink : Port Ack
  data0 : Port Level
  data1 : Port Level
  emit : Port Ack
  cancel : Port Bool
  kill : Option Nat
  deriving DecidableEq, Repr

/-- The state record of R40. cfg and env are the model's own fields (log entries 1 and 2). -/
structure State where
  /-- The configuration of the run (R8 to R22); no step writes it. -/
  cfg : Config
  /-- MODE (R41). -/
  mode : Mode
  /-- upc (R42). -/
  upc : RomAddr
  /-- CLK_Q (R43). -/
  clkQ : Level
  /-- STB_Q (R44). -/
  stbQ : Level
  /-- PINMODE[P_PIN_CLK] (R45). -/
  pinModeClk : PinMode
  /-- PINMODE[P_PIN_STB] (R45). -/
  pinModeStb : PinMode
  /-- PINMODE[P_PIN_DATA[0]] (R45). -/
  pinModeData0 : PinMode
  /-- PINMODE[P_PIN_DATA[1]] (R45). -/
  pinModeData1 : PinMode
  /-- M[0] (R46). -/
  mask0 : Mask
  /-- M[1] (R46). -/
  mask1 : Mask
  /-- SINK_OPEN (R49). -/
  sinkOpen : Bool
  /-- EXIT: none is NONE (R50). -/
  exit : Option ExitCode
  /-- REASON (R51). -/
  reason : Reason
  /-- FAILCNT (R52). -/
  failCnt : Nat
  /-- TRACE, oldest event first (R53). -/
  trace : List Event
  /-- The host's coming answers (R25, R220). -/
  env : Env
  deriving DecidableEq, Repr

/-- The model faults of R209. "None is a hardware mode, a faulted state is never final". All four err toward
unprovable, so all four are safe. -/
inductive Fault where
  /-- F_ILLEGAL: raised by the sequencer when the fetched word is illegal by R106, and by SMP and EMK for an
  index above 11, which no word encodes. Nothing has changed. Safe. -/
  | illegal (why : Illegal)
  /-- F_MODE: raised by INIT when MODE ≠ INITIALIZING and by every other micro-op when MODE ≠ POLLING (R115).
  Nothing has changed. Safe. -/
  | mode
  /-- F_PC: raised by the sequencer on a fetch at upc ≥ L_ROM, and by every micro-op but JMP when upc + 1
  reaches 4096. It carries the state at the fault, since in the second case the micro-op has executed and
  been traced (95_test_vectors.md L2.9). Safe. -/
  | pc (stopped : State)
  /-- F_CONFIG: raised by boot, and by step, for a configuration the model refuses (R22). Safe. -/
  | config
  deriving DecidableEq, Repr

/-- Why a step has no next state without a model fault. -/
inductive Refusal where
  /-- An instruction with no meaning yet; raised by no arm of exec now. Safe. -/
  | notModelled (mnemonic : String)
  /-- Raised by step when MODE = TERMINATED: "no step (the run has ended)" (R115, R203, R244; log entry 5).
  Safe. -/
  | runEnded
  deriving DecidableEq, Repr

/-- A port with no answer laid down. -/
def Port.unscripted {α : Type} : Port α := ⟨[], 0⟩

/-- An environment that lays down no answer and no kill: every answer is a free value. -/
def Env.unscripted : Env where
  gpio := .unscripted
  sink := .unscripted
  data0 := .unscripted
  data1 := .unscripted
  emit := .unscripted
  cancel := .unscripted
  kill := none

/-- Reset under any configuration and any environment: every field of R40 at the value its own rule gives
(R240). -/
def State.resetWith (c : Config) (e : Env) : State where
  cfg := c
  mode := .initializing
  upc := 0#12
  clkQ := .low
  stbQ := .low
  pinModeClk := .unconfigured
  pinModeStb := .unconfigured
  pinModeData0 := .unconfigured
  pinModeData1 := .unconfigured
  mask0 := 0x0000#16
  mask1 := 0x0000#16
  sinkOpen := false
  exit := none
  reason := .none
  failCnt := 0
  trace := []
  env := e

/-- The machine right after reset: the reference configuration, with no answer of the host laid down (R240,
R241; log entries 3 and 4). -/
def State.reset : State := State.resetWith referenceConfig Env.unscripted

end Sys2Proof.Machine
end

