-- ==== Sys2Proof/Machine/Operands.lean ====
section
/-! DEFINITION. The homes of the block's registers and the operands that name them: every read and write of
a state field goes through these (10_state.md R43 to R53; 30_encoding.md R103, R104). -/

namespace Sys2Proof

/-- The identity of a pin (R11). -/
def Config.pin (c : Config) : PinRole → PinId
  | .clk => c.pinClk
  | .stb => c.pinStb
  | .data .pad0 => c.pinData0
  | .data .pad1 => c.pinData1

/-- P_TABLE[p] (R12, R81). -/
def Config.table (c : Config) : Pad → Vector TableEntry 12
  | .pad0 => c.table0
  | .pad1 => c.table1

namespace Machine

/-- `v[i] <- b`: bit i is written and the other bits are unchanged (R26). -/
def writeBit (v : Mask) (i : Nat) (b : Bool) : Mask :=
  if b then v ||| (1#16 <<< i) else v &&& ~~~(1#16 <<< i)

/-- The bit an active-low level stands for: LOW is 1, HIGH is 0 (R24, R124). -/
def pressedBit : Level → Bool
  | .low => true
  | .high => false

/-- M[p] (R46). -/
def State.mask (s : State) : Pad → Mask
  | .pad0 => s.mask0
  | .pad1 => s.mask1

/-- M[p] <- v (R46). -/
def State.setMask (s : State) (p : Pad) (v : Mask) : State :=
  match p with
  | .pad0 => { s with mask0 := v }
  | .pad1 => { s with mask1 := v }

/-- PINMODE[pin] (R45). -/
def State.pinMode (s : State) : PinRole → PinMode
  | .clk => s.pinModeClk
  | .stb => s.pinModeStb
  | .data .pad0 => s.pinModeData0
  | .data .pad1 => s.pinModeData1

/-- PINMODE[pin] <- m (R45). -/
def State.setPinMode (s : State) (role : PinRole) (m : PinMode) : State :=
  match role with
  | .clk => { s with pinModeClk := m }
  | .stb => { s with pinModeStb := m }
  | .data .pad0 => { s with pinModeData0 := m }
  | .data .pad1 => { s with pinModeData1 := m }

/-- PINMODE is as INIT sets it (R45, R56). -/
def State.pinsConfigured (s : State) : Bool :=
  s.pinModeClk == .output && s.pinModeStb == .output && s.pinModeData0 == .input && s.pinModeData1 == .input

/-- CLK_Q <- lvl (R43). -/
def State.setClkQ (s : State) (lvl : Level) : State := { s with clkQ := lvl }

/-- STB_Q <- lvl (R44). -/
def State.setStbQ (s : State) (lvl : Level) : State := { s with stbQ := lvl }

/-- MODE <- m (R41). -/
def State.setMode (s : State) (m : Mode) : State := { s with mode := m }

/-- upc <- a (R42). -/
def State.setUpc (s : State) (a : RomAddr) : State := { s with upc := a }

/-- SINK_OPEN <- b (R49). -/
def State.setSinkOpen (s : State) (b : Bool) : State := { s with sinkOpen := b }

/-- EXIT <- code (R50). -/
def State.setExit (s : State) (code : ExitCode) : State := { s with exit := some code }

/-- REASON <- r (R51). -/
def State.setReason (s : State) (r : Reason) : State := { s with reason := r }

/-- FAILCNT <- n (R52). -/
def State.setFailCnt (s : State) (n : Nat) : State := { s with failCnt := n }

/-- TRACE += e (R53). -/
def State.record (s : State) (e : Event) : State := { s with trace := s.trace ++ [e] }

/-- The host's coming answers, replaced. -/
def State.setEnv (s : State) (e : Env) : State := { s with env := e }

end Machine

/-- FREE VALUE: the level on an output line after the run. "any value for the physical line after the run"
(93_implementation_defined.md I24; R244). -/
opaque Config.freeLine : Machine.State → PinRole → Level

namespace Machine

/-- The level on an output line whose register holds q: q while the block runs (R43, R44), and after the run, in
TERMINATED, a free value, though the register itself keeps q (I24, R244; log entry 21). -/
def State.lineLevel (s : State) (role : PinRole) (q : Level) : Level :=
  if s.mode = .terminated then Config.freeLine s role else q

/-- The level on a pin that the block has configured OUTPUT, and none on a pin it does not drive (R43, R44). -/
def State.drives (s : State) : PinRole → Option Level
  | .clk => if s.pinModeClk = .output then some (s.lineLevel .clk s.clkQ) else none
  | .stb => if s.pinModeStb = .output then some (s.lineLevel .stb s.stbQ) else none
  | .data _ => none

/-- The port of pad p's data line (R58). -/
def Env.data (e : Env) : Pad → Port Level
  | .pad0 => e.data0
  | .pad1 => e.data1

/-- The port of pad p's data line, replaced. -/
def Env.setData (e : Env) (p : Pad) (q : Port Level) : Env :=
  match p with
  | .pad0 => { e with data0 := q }
  | .pad1 => { e with data1 := q }

end Machine
end Sys2Proof
end

