-- ==== Sys2Proof/Machine/Flags.lean ====
section
/-! DEFINITION. The block has no condition codes, flags or predicates (10_state.md R55). This file holds what
stands where flags would: the pressed test and the mapper, which are computed and not kept (41_mapper.md R140,
R141), the write-failure limit test (R146), and the packed read-only STATUS view (10_state.md R56). -/

namespace Sys2Proof.Machine

/-- PRESSED(m, sel) = ((m & sel) == sel) (R140). -/
def pressed (m sel : Mask) : Bool := (m &&& sel) == sel

/-- MAP(m, T): one (key, pressed) pair per table entry, in table order (R141). -/
def mapMask (m : Mask) (table : Vector TableEntry 12) : List (KeyCode × Bool) :=
  table.toList.map fun e => (e.key, pressed m e.sel)

/-- P_FAIL_LIMIT ≠ INF and FAILCNT ≥ P_FAIL_LIMIT (R146). -/
def limitReached (s : State) : Bool :=
  match s.cfg.failLimit with
  | none => false
  | some limit => decide (limit ≤ s.failCnt)

/-- The numeric code of a reason (R201). -/
def Reason.code : Reason → BitVec 4
  | .none => 0#4
  | .gpioInit => 1#4
  | .sinkInit => 2#4
  | .emit => 3#4
  | .emitLimit => 4#4
  | .cancel => 5#4
  | .kill => 6#4

/-- The STATUS code of a mode (R56); 3 never occurs (I27). -/
def Mode.code : Mode → BitVec 2
  | .initializing => 0#2
  | .polling => 1#2
  | .terminated => 2#2

/-- EXIT mod 256 when EXIT ≠ NONE, else 0 (R56). -/
def exitByte (s : State) : BitVec 8 :=
  match s.exit with
  | none => 0#8
  | some code => BitVec.ofNat 8 code

/-- The STATUS word: [15:8] EXIT, [7:4] REASON, [3] PINS_CFG, [2] SINK_OPEN, [1:0] MODE. It is a view; no
micro-op reads it and nothing writes it (R56). -/
def State.status (s : State) : BitVec 16 :=
  exitByte s ++ s.reason.code ++ BitVec.ofBool s.pinsConfigured ++ BitVec.ofBool s.sinkOpen ++ s.mode.code

end Sys2Proof.Machine
end

