-- ==== Sys2Proof/Machine/Ops.lean ====
section
/-! DEFINITION. The named operations the meanings share: the primitives of 00_scope.md R25, fatal entry,
kill and the clean exit (60_exceptions.md R202, R207; 42_control.md R161), write-result handling
(41_mapper.md R146), and the common part of every micro-op (40_pin_sequencer.md R115). -/

namespace Sys2Proof.Machine

/-- What a step of this machine answers. -/
abbrev Answer := Host.Outcome State Fault Refusal

/-! ## Draws (R25; log entry 2) -/

/-- The next answer of a port: the first one laid down, or a free value. -/
def Port.head {α : Type} (free : Nat → α) (q : Port α) : α :=
  match q.pending with
  | [] => free q.taken
  | a :: _ => a

/-- The port after one answer has been taken. -/
def Port.tail {α : Type} (q : Port α) : Port α := ⟨q.pending.tail, q.taken + 1⟩

/-- The k-th coming answer of a port, counted from 0. -/
def Port.answer {α : Type} (free : Nat → α) (q : Port α) (k : Nat) : α :=
  q.pending.getD k (free (q.taken + k))

/-- The level the next read of pad p's data line returns. -/
def State.nextLevel (s : State) (p : Pad) : Level := (s.env.data p).head (Config.freeData p)

/-- The result of the next event write. -/
def State.nextEmit (s : State) : Ack := s.env.emit.head Config.freeEmit

/-- The next value of the cancellation input. -/
def State.nextCancel (s : State) : Bool := s.env.cancel.head Config.freeCancel

/-- The answer to the next GpioSetup. -/
def State.nextGpio (s : State) : Ack := s.env.gpio.head Config.freeGpio

/-- The answer to the next SinkOpen. -/
def State.nextSink (s : State) : Ack := s.env.sink.head Config.freeSink

/-! ## Primitives (R25) -/

/-- PinConfigure(pin, mode), with PINMODE[pin] <- mode (R25, R160). It always completes. -/
def pinConfigure (role : PinRole) (m : PinMode) (s : State) : State :=
  (s.record (.cfg (s.cfg.pin role) m)).setPinMode role m

/-- PinWrite(pin, lvl) (R25). It always completes. -/
def pinWrite (role : PinRole) (lvl : Level) (s : State) : State := s.record (.wr (s.cfg.pin role) lvl)

/-- PinRead(P_PIN_DATA[p]) (R25): the level and the state after it. -/
def pinRead (p : Pad) (s : State) : Level × State :=
  let lvl := s.nextLevel p
  (lvl, (s.setEnv (s.env.setData p (s.env.data p).tail)).record (.rd (s.cfg.pin (.data p)) lvl))

/-- GpioSetup() (R25). -/
def gpioSetup (s : State) : Ack × State :=
  let r := s.nextGpio
  (r, (s.setEnv { s.env with gpio := s.env.gpio.tail }).record (.gpioInit r))

/-- SinkOpen() (R25). -/
def sinkOpen (s : State) : Ack × State :=
  let r := s.nextSink
  (r, (s.setEnv { s.env with sink := s.env.sink.tail }).record (.sinkInit r))

/-- What the event port carries: one Key event per pair, or one marker (R147). -/
inductive SinkEvent where
  | key (key : KeyCode) (pressed : Bool)
  | sync
  deriving DecidableEq, Repr

/-- The trace event of a sink event with its result (R25, R53). -/
def SinkEvent.traced : SinkEvent → Ack → Event
  | .key k pr, r => .key k pr r
  | .sync, r => .sync r

/-- Emit(ev): one synchronous write, with its result (R25; 92_eei_decisions.md D27). -/
def emit (ev : SinkEvent) (s : State) : Ack × State :=
  let r := s.nextEmit
  (r, (s.setEnv { s.env with emit := s.env.emit.tail }).record (ev.traced r))

/-- HostDelay(d) (R25). It always completes; the model has no time below the event (R254, log entry 15). -/
def hostDelay (d : Micros) (s : State) : State := s.record (.delay d)

/-- CancelInput() (R25). -/
def cancelInput (s : State) : Bool × State :=
  let c := s.nextCancel
  (c, (s.setEnv { s.env with cancel := s.env.cancel.tail }).record (.cancel c))

/-- RomFetch(upc), where a word exists at upc (R25, R80, R87). -/
def romFetch (s : State) : Option Word := s.cfg.rom[s.upc.toNat]?

/-- TableRead(p, j) (R25). -/
def tableRead (p : Pad) (j : Fin 12) (s : State) : TableEntry := (s.cfg.table p)[j]

/-! ## Ends of a run -/

/-- fatal(reason), the block's trap entry (R202): Log, REASON, EXIT, Exit, TERMINATED. upc and SINK_OPEN are
not changed, and there is no handler and no return (R203). -/
def fatal (reason : Reason) (s : State) : State :=
  ((((s.record (.log reason)).setReason reason).setExit s.cfg.exitFail).record (.exit s.cfg.exitFail)).setMode
    .terminated

/-- A kill by the host between two steps (R207). -/
def hostKill (s : State) : State :=
  (((s.record .killed).setReason .kill).setExit s.cfg.exitKill).setMode .terminated

/-- The clean exit of CHKC (R161). -/
def cancelExit (s : State) : State :=
  (((((s.record .close).setSinkOpen false).setReason .cancel).setExit 0).record (.exit 0)).setMode .terminated

/-! ## Shared parts of the micro-ops -/

/-- CLK_Q <- lvl; PinWrite(P_PIN_CLK, lvl) (R120, R121). -/
def driveClk (lvl : Level) (s : State) : State := pinWrite .clk lvl (s.setClkQ lvl)

/-- STB_Q <- lvl; PinWrite(P_PIN_STB, lvl) (R122, R123). -/
def driveStb (lvl : Level) (s : State) : State := pinWrite .stb lvl (s.setStbQ lvl)

/-- Read pad p's line once and store the inverted level in bit i of M[p] (R124). -/
def sampleBit (p : Pad) (i : Fin 12) (s : State) : State :=
  let (lvl, s1) := pinRead p s
  s1.setMask p (writeBit (s1.mask p) i.val (pressedBit lvl))

/-- WriteResult(r) (R146): a success clears FAILCNT; a failure is logged and counted, and is fatal only at a
finite limit. -/
def writeResult (r : Ack) (s : State) : State :=
  match r with
  | .ok => s.setFailCnt 0
  | .fail =>
    let s1 := (s.record (.log .emit)).setFailCnt (s.failCnt + 1)
    if limitReached s1 then fatal .emitLimit s1 else s1

/-- Emit one event and handle its result (R144, R145). -/
def emitAndCheck (ev : SinkEvent) (s : State) : State :=
  let (r, s1) := emit ev s
  writeResult r s1

/-- The MODE check of R115: the micro-op runs in mode m and faults F_MODE in every other. -/
def inMode (m : Mode) (s : State) (run : Answer) : Answer :=
  if s.mode = m then run else .fault .mode

/-- The index of format PN as a bit or entry number; 12 to 15 are reserved (R104, R106(d); log entry 11). -/
def withIndex (n : BitVec 4) (run : Fin 12 → Answer) : Answer :=
  if h : n.toNat < 12 then run ⟨n.toNat, h⟩ else .fault (.illegal .index)

/-- upc <- upc + 1, unless the run has ended (R42, R115). -/
def advance (t : State) : State := if t.mode = .terminated then t else t.setUpc (t.upc + 1#12)

/-- The end of every micro-op but JMP (R42, R115): s is the state it started in, t the state after its effect.
upc does not wrap: a micro-op at 4095 that does not end the run faults F_PC after its effect. -/
def complete (s t : State) : Answer :=
  if s.upc = 4095#12 then
    if t.mode = .terminated then .next t else .fault (.pc t)
  else .next (advance t)

end Sys2Proof.Machine
end

