-- ==== Sys2Proof/Machine/Control.lean ====
section
/-! DEFINITION. The control micro-ops: initialise, cancel check, delay, jump (42_control.md R160 to R163). -/

namespace Sys2Proof.Machine

/-- The four PinConfigure calls of INIT, in order: CLK, STB, DATA[0], DATA[1] (R160). -/
def configurePins (s : State) : State :=
  pinConfigure (.data .pad1) .input
    (pinConfigure (.data .pad0) .input (pinConfigure .stb .output (pinConfigure .clk .output s)))

/-- The effect of INIT (R160): a GPIO failure is fatal before any pin is configured, a sink failure after. -/
def initialise (s : State) : State :=
  match gpioSetup s with
  | (.fail, s1) => fatal .gpioInit s1
  | (.ok, s1) =>
    match sinkOpen (configurePins s1) with
    | (.fail, s2) => fatal .sinkInit s2
    | (.ok, s2) => (s2.setSinkOpen true).setMode .polling

/-- INIT performs GPIO setup, pin configuration and sink creation, and enters POLLING (R160). -/
def execInit (s : State) : Answer := inMode .initializing s (complete s (initialise s))

/-- The effect of CHKC (R161): with P_CANCEL_PRESENT = 0 nothing is drawn and nothing is traced. -/
def checkCancel (s : State) : State :=
  if s.cfg.cancelPresent then
    match cancelInput s with
    | (true, s1) => cancelExit s1
    | (false, s1) => s1
  else s

/-- CHKC tests the cancellation input once and ends the run cleanly when it is asserted (R161). -/
def execChkc (s : State) : Answer := inMode .polling s (complete s (checkCancel s))

/-- WAIT suspends the sequencer for the inter-cycle delay (R162). -/
def execWait (s : State) : Answer := inMode .polling s (complete s (hostDelay s.cfg.cycleDelay s))

/-- JMP t transfers control to word address t (R163). A target at or beyond L_ROM faults at the next fetch. -/
def execJmp (t : RomAddr) (s : State) : Answer := inMode .polling s (.next (s.setUpc t))

end Sys2Proof.Machine
end

