-- ==== Sys2Proof/Machine/Mapper.lean ====
section
/-! DEFINITION. The Button Mapper's micro-ops: one key event, one marker (41_mapper.md R144, R145). -/

namespace Sys2Proof.Machine

/-- The key event of table entry j of pad p under the mask as it stands (R144). -/
def keyEvent (p : Pad) (j : Fin 12) (s : State) : SinkEvent :=
  let entry := tableRead p j s
  .key entry.key (pressed (s.mask p) entry.sel)

/-- EMK p, j evaluates table entry j of pad p against M[p] and emits one key event (R144). -/
def execEmk (p : Pad) (n : BitVec 4) (s : State) : Answer :=
  withIndex n fun j => inMode .polling s (complete s (emitAndCheck (keyEvent p j s) s))

/-- SYNC emits one synchronisation marker (R145). -/
def execSync (s : State) : Answer := inMode .polling s (complete s (emitAndCheck .sync s))

end Sys2Proof.Machine
end

