-- ==== Sys2Proof/Machine/Pins.lean ====
section
/-! DEFINITION. The Pad Decoder's micro-ops: clock, strobe and sample (40_pin_sequencer.md R120 to R124). -/

namespace Sys2Proof.Machine

/-- CLKH drives the clock line high (R120). -/
def execClkh (s : State) : Answer := inMode .polling s (complete s (driveClk .high s))

/-- CLKL drives the clock line low (R121). -/
def execClkl (s : State) : Answer := inMode .polling s (complete s (driveClk .low s))

/-- STBH drives the strobe line high (R122). -/
def execStbh (s : State) : Answer := inMode .polling s (complete s (driveStb .high s))

/-- STBL drives the strobe line low (R123). -/
def execStbl (s : State) : Answer := inMode .polling s (complete s (driveStb .low s))

/-- SMP p, i reads the data line of pad p once and stores the inverted level in bit i of M[p] (R124). -/
def execSmp (p : Pad) (n : BitVec 4) (s : State) : Answer :=
  withIndex n fun i => inMode .polling s (complete s (sampleBit p i s))

end Sys2Proof.Machine
end

