-- ==== Sys2Proof/Machine/Dispatch.lean ====
section
/-! DEFINITION. One arm per micro-op (30_encoding.md R102). -/

namespace Sys2Proof.Machine

def exec (i : Instr) (s : State) : Host.Outcome State Fault Refusal :=
  match i with
  | .init => Sys2Proof.Machine.execInit s
  | .clkl => Sys2Proof.Machine.execClkl s
  | .clkh => Sys2Proof.Machine.execClkh s
  | .stbl => Sys2Proof.Machine.execStbl s
  | .stbh => Sys2Proof.Machine.execStbh s
  | .smp p n => Sys2Proof.Machine.execSmp p n s
  | .emk p n => Sys2Proof.Machine.execEmk p n s
  | .sync => Sys2Proof.Machine.execSync s
  | .chkc => Sys2Proof.Machine.execChkc s
  | .wait => Sys2Proof.Machine.execWait s
  | .jmp t => Sys2Proof.Machine.execJmp t s

end Sys2Proof.Machine
end

