-- ==== Sys2Proof/Machine/Sequencer.lean ====
section
/-! DEFINITION. One step of the sequencer (40_pin_sequencer.md R115), the host's kill between steps
(60_exceptions.md R207, R208), the refusal of a configuration before reset (R22, R209), and the running of a
list of micro-ops in order. -/

namespace Sys2Proof.Machine

/-- The host's kill falls at this step boundary (R207). -/
def killDue (s : State) : Bool := s.env.kill == some 0

/-- The boundary before a micro-op has passed without a kill: a kill laid down for a later boundary is one
step nearer. -/
def passBoundary (s : State) : State :=
  s.setEnv { s.env with kill := s.env.kill.map Nat.pred }

/-- Fetch, decode and execute (R115). The MODE check and the advance of upc are in the micro-op (log
entry 10). -/
def fetchAndExecute (s : State) : Answer :=
  match romFetch s with
  | none => .fault (.pc s)
  | some w =>
    match decode w with
    | .error why => .fault (.illegal why)
    | .ok i => exec i s

/-- One step (R115). A configuration the model refuses has no step (R22, log entry 6). In TERMINATED there is
no step (log entry 5). A kill due at the boundary is taken before the next micro-op is fetched (R208(c)). -/
def sequencerStep (s : State) : Answer :=
  if s.cfg.accepted = true then
    if s.mode = .terminated then .refused .runEnded
    else if killDue s then .next (hostKill s)
    else fetchAndExecute (passBoundary s)
  else .fault .config

/-- Start a run: F_CONFIG for a configuration the model refuses, else the reset state (R22, R240, R242). -/
def boot (c : Config) (e : Env) : Answer :=
  if c.accepted = true then .next (State.resetWith c e) else .fault .config

/-- Execute micro-ops in order, stopping at the first that has no next state. A pseudo-instruction means its
expansion executed so (R109). -/
def execAll : List Instr → State → Answer
  | [], s => .next s
  | i :: rest, s =>
    match exec i s with
    | .next t => execAll rest t
    | .fault f => .fault f
    | .refused r => .refused r

/-- ROM with word w at address a; addresses below a that held nothing hold the illegal word 0x0000. -/
def romWith (rom : List Word) (a : Nat) (w : Word) : List Word :=
  rom.take a ++ List.replicate (a - rom.length) 0x0000#16 ++ [w] ++ rom.drop (a + 1)

/-- s with the word of the host's table numbering at upc, where the next fetch reads (log entry 12). -/
def placeFetchWord (s : State) (nbits w : Nat) : State :=
  { s with cfg := { s.cfg with rom := romWith s.cfg.rom s.upc.toNat (tableWord nbits w) } }

end Sys2Proof.Machine
end

