-- ==== Sys2Proof/Machine/Step.lean ====
section
/-! DEFINITION. The machine's step and the placing of a word for its next fetch (40_pin_sequencer.md R115). -/

namespace Sys2Proof.Machine

/-- One step of the block (R115, R207). -/
def step (s : State) : Host.Outcome State Fault Refusal := sequencerStep s

/-- s with the instruction of the host's table numbering stored where step fetches its next instruction:
ROM word upc. Nothing else changes: not MODE, so that a micro-op other than INIT placed after reset faults
F_MODE, as R241 says (log entry 12). -/
def State.withFetchWord (s : State) (nbits w : Nat) : State := placeFetchWord s nbits w

end Sys2Proof.Machine
end

