-- ==== Sys2Proof/Machine/Composite.lean ====
section
/-! DEFINITION. What the spec says of the pseudo-instructions and of a poll cycle as a whole: the mask a decode
assembles (40_pin_sequencer.md R125), its pin trace (R127), the events of one pad's emission
(43_reference_sequence.md R185) and of one poll cycle (R183, R184), and the failure count a trace stands for
(10_state.md R52). Each is written from its own rule, not from the micro-ops. -/

namespace Sys2Proof.Machine

/-- The number of a pad, 0 or 1 (R8). -/
def padNumber : Pad → Nat
  | .pad0 => 0
  | .pad1 => 1

/-- The levels the coming reads of pad p's data line return: level k is the k-th of them. -/
def State.levels (s : State) (p : Pad) (k : Nat) : Level := (s.env.data p).answer (Config.freeData p) k

/-- The value of R125: sum over k in 0..11 of ((l_k == LOW) ? 1 : 0) << k. -/
def assembledValue (l : Nat → Level) : Nat :=
  ((List.range 12).map fun k => if l k = .low then 2 ^ k else 0).sum

/-- The mask of R125. -/
def assembledMask (l : Nat → Level) : Mask := BitVec.ofNat 16 (assembledValue l)

/-- The pin trace of DECODE p reading l_0, …, l_11 (R127). -/
def decodeTrace (c : Config) (tc : Bool) (p : Pad) (l : Nat → Level) : List Event :=
  let strobe : List Event := [.wr c.pinStb .high, .wr c.pinStb .low]
  let clock : List Event := [.wr c.pinClk .high, .wr c.pinClk .low]
  let read (k : Nat) : List Event := [.rd (c.pin (.data p)) (l k)]
  strobe ++ read 0 ++ (List.range 11).flatMap (fun k => clock ++ read (k + 1)) ++ (if tc then clock else [])

/-- The events of EMITPAD p under mask m when every write succeeds (R185). -/
def emitPadTrace (c : Config) (sm : SyncMode) (p : Pad) (m : Mask) : List Event :=
  match sm with
  | .perPad => ((mapMask m (c.table p)).map fun kp => Event.key kp.1 kp.2 .ok) ++ [.sync .ok]
  | .perKey => (mapMask m (c.table p)).flatMap fun kp => [Event.key kp.1 kp.2 .ok, .sync .ok]

/-- The events of one poll cycle in which no write fails and no cancellation occurs, pad 0 reading l0 and
pad 1 reading l1 (R183, R184). -/
def cycleTrace (c : Config) (l0 l1 : Nat → Level) : List Event :=
  decodeTrace c c.trailingClock .pad0 l0 ++ emitPadTrace c c.syncMode .pad0 (assembledMask l0)
    ++ decodeTrace c c.trailingClock .pad1 l1 ++ emitPadTrace c c.syncMode .pad1 (assembledMask l1)
    ++ (if c.cancelPresent then [.cancel false] else []) ++ [.delay c.cycleDelay]

/-- The words of one decode: 36 + 2·tc (R180). -/
def decodeLength (tc : Bool) : Nat := if tc then 38 else 36

/-- The words, and the event writes, of one pad's emission: 13 with PER_PAD, 24 with PER_KEY (R180). -/
def emitPadLength : SyncMode → Nat
  | .perPad => 13
  | .perKey => 24

/-- The result an event carries, if it is an event write (R53). -/
def Event.writeResult : Event → Option Ack
  | .key _ _ r => some r
  | .sync r => some r
  | _ => none

/-- The number of failed event writes at the end of a trace, back to the last one that succeeded (R52). -/
def failureStreak (trace : List Event) : Nat :=
  ((trace.filterMap Event.writeResult).reverse.takeWhile (· == .fail)).length

end Sys2Proof.Machine
end

