-- ==== Sys2Proof/Machine/Keys.lean ====
section
/-! DEFINITION. KeyCode as a type parameter with decidable equality (00_scope.md R14). State is plain data, so the
machine's own key codes are 16 bits wide (W_KEY). This file runs the block for any key type K: the 24 keys of the
tables are numbered, the machine runs on the numbers, and its events are read back with the keys of K (log
entry 7). No micro-op looks at a key, which the obligation KeysAreCarriedNotInspected states. -/

namespace Sys2Proof.Machine

/-- A configuration whose keys are of type K (R12, R14). settings gives everything else; the keys in its own
tables play no part. -/
structure KeyedConfig (K : Type) where
  /-- The parameters R11 and R13 to R21, and the selectors of the two tables. -/
  settings : Config
  /-- The keys of P_TABLE[0], in table order. -/
  keys0 : Vector K 12
  /-- The keys of P_TABLE[1], in table order. -/
  keys1 : Vector K 12
  deriving DecidableEq, Repr

/-- The keys of P_TABLE[p]. -/
def KeyedConfig.keys {K : Type} (c : KeyedConfig K) : Pad → Vector K 12
  | .pad0 => c.keys0
  | .pad1 => c.keys1

/-- The 24 keys, pad 0's first. -/
def KeyedConfig.allKeys {K : Type} (c : KeyedConfig K) : List K := c.keys0.toList ++ c.keys1.toList

/-- The number of a key: the place where it stands first, so that equal keys, and only those, share a number. -/
def KeyedConfig.code {K : Type} [DecidableEq K] (c : KeyedConfig K) (key : K) : KeyCode :=
  BitVec.ofNat 16 (c.allKeys.findIdx fun k => decide (k = key))

/-- The key a number stands for. -/
def KeyedConfig.keyOf {K : Type} (c : KeyedConfig K) (code : KeyCode) : Option K := c.allKeys[code.toNat]?

/-- A table with the selectors of t and the numbers of the keys. -/
def KeyedConfig.codedTable {K : Type} [DecidableEq K] (c : KeyedConfig K) (p : Pad) : Vector TableEntry 12 :=
  Vector.ofFn fun j => ⟨(c.settings.table p)[j].sel, c.code (c.keys p)[j]⟩

/-- The configuration the machine runs. -/
def KeyedConfig.coded {K : Type} [DecidableEq K] (c : KeyedConfig K) : Config :=
  { c.settings with table0 := c.codedTable .pad0, table1 := c.codedTable .pad1 }

/-- A trace event with the keys of K: Key(key, pressed, r) names a key of K; no other event has a key (R53). -/
inductive KeyedEvent (K : Type) where
  | key (key : K) (pressed : Bool) (r : Ack)
  | plain (e : Event)
  deriving DecidableEq, Repr

/-- An event of the machine, read with the keys of K. -/
def KeyedConfig.event {K : Type} (c : KeyedConfig K) : Event → KeyedEvent K
  | .key code pr r =>
    match c.keyOf code with
    | some k => .key k pr r
    | none => .plain (.key code pr r)
  | .gpioInit r => .plain (.gpioInit r)
  | .cfg pin m => .plain (.cfg pin m)
  | .sinkInit r => .plain (.sinkInit r)
  | .wr pin lvl => .plain (.wr pin lvl)
  | .rd pin lvl => .plain (.rd pin lvl)
  | .sync r => .plain (.sync r)
  | .log code => .plain (.log code)
  | .cancel b => .plain (.cancel b)
  | .delay d => .plain (.delay d)
  | .close => .plain .close
  | .exit code => .plain (.exit code)
  | .killed => .plain .killed

/-- The block with keys of type K: its configuration and the machine that runs it. -/
structure KeyedState (K : Type) where
  keyed : KeyedConfig K
  block : State
  deriving DecidableEq, Repr

/-- TRACE with the keys of K (R53). -/
def KeyedState.trace {K : Type} (s : KeyedState K) : List (KeyedEvent K) := s.block.trace.map s.keyed.event

/-- An answer of the machine, as an answer of the block with keys of type K. -/
def KeyedConfig.lift {K : Type} (c : KeyedConfig K) : Answer → Host.Outcome (KeyedState K) Fault Refusal
  | .next t => .next ⟨c, t⟩
  | .fault f => .fault f
  | .refused r => .refused r

/-- A micro-op of the block with keys of type K. -/
def KeyedState.exec {K : Type} (i : Instr) (s : KeyedState K) : Host.Outcome (KeyedState K) Fault Refusal :=
  s.keyed.lift (Machine.exec i s.block)

/-- A step of the block with keys of type K. -/
def KeyedState.step {K : Type} (s : KeyedState K) : Host.Outcome (KeyedState K) Fault Refusal :=
  s.keyed.lift (Machine.step s.block)

/-- Reset of the block with keys of type K. -/
def KeyedConfig.reset {K : Type} [DecidableEq K] (c : KeyedConfig K) (e : Env) : KeyedState K :=
  ⟨c, State.resetWith c.coded e⟩

/-- Start a run with keys of type K: F_CONFIG for a configuration the model refuses (R22). -/
def KeyedConfig.boot {K : Type} [DecidableEq K] (c : KeyedConfig K) (e : Env) :
    Host.Outcome (KeyedState K) Fault Refusal := c.lift (Machine.boot c.coded e)

/-- The block for any key type: a machine in the host's sense. -/
def keyedCore (K : Type) [DecidableEq K] (c : KeyedConfig K) (e : Env) : Host.Core where
  State := KeyedState K
  Fault := Fault
  Refusal := Refusal
  step := KeyedState.step
  reset := c.reset e

/-! ## Renaming the machine's own key codes -/

/-- A table with its keys renamed. -/
def renameTable (f : KeyCode → KeyCode) (table : Vector TableEntry 12) : Vector TableEntry 12 :=
  table.map fun e => { e with key := f e.key }

/-- An event with its key renamed. -/
def Event.renameKey (f : KeyCode → KeyCode) : Event → Event
  | .key code pr r => .key (f code) pr r
  | e => e

/-- A state with every key renamed, in the tables and in TRACE. -/
def State.renameKeys (f : KeyCode → KeyCode) (s : State) : State :=
  { s with
    cfg := { s.cfg with table0 := renameTable f s.cfg.table0, table1 := renameTable f s.cfg.table1 }
    trace := s.trace.map (Event.renameKey f) }

end Sys2Proof.Machine
end

