-- ==== Sys2Proof/Machine/PadModel.lean ====
section
/-! DEFINITION. The informative pad environment (60_exceptions.md R215, R216): two SNES-style pads on the
shared bus, answering the block's reads. It is not normative for the block; a claim proved on this bench is a
claim under the pad model (92_eei_decisions.md D24; log entry 13). -/

namespace Sys2Proof.Machine

/-- P_PAD_SHIFT_EDGE: the clock edge on which a pad shifts (R216(b)). -/
inductive ShiftEdge where
  | rising
  | falling
  deriving DecidableEq, Repr

/-- The two OPEN parameters of the pad model (R216; D24). -/
structure PadParams where
  /-- P_PAD_SHIFT_EDGE. -/
  edge : ShiftEdge
  /-- P_PAD_TAIL: the level shown from position 12 on. -/
  tail : Level
  deriving DecidableEq, Repr

/-- A reference pad (R216). buttons is what the player holds, bit b for button b of R47; latched is Q[0..11]
with HIGH as 1; stb and clk are the levels last seen on the shared lines. -/
structure PadDevice where
  buttons : BitVec 12
  latched : BitVec 12
  pos : Nat
  stb : Level
  clk : Level
  deriving DecidableEq, Repr

/-- Q[b] takes the level of button b, LOW when pressed, and k is set to 0 (R216(a)). -/
def PadDevice.latch (d : PadDevice) : PadDevice := { d with latched := ~~~d.buttons, pos := 0 }

/-- The strobe line takes a level: the pad latches while it is HIGH and at its falling edge (R216(a)). -/
def PadDevice.seeStrobe (d : PadDevice) (lvl : Level) : PadDevice :=
  if d.stb = .high ∨ lvl = .high then { d.latch with stb := lvl } else { d with stb := lvl }

/-- The write lvl makes the edge the pad shifts on (R216(b)). -/
def PadDevice.shiftsOn (d : PadDevice) (edge : ShiftEdge) (lvl : Level) : Bool :=
  match edge with
  | .rising => d.clk == .low && lvl == .high
  | .falling => d.clk == .high && lvl == .low

/-- The clock line takes a level: the position moves on by one at the edge, but is held at 0 while STB is
HIGH (R216(a), (b)). -/
def PadDevice.seeClock (edge : ShiftEdge) (d : PadDevice) (lvl : Level) : PadDevice :=
  if d.shiftsOn edge lvl ∧ d.stb = .low then { d with clk := lvl, pos := d.pos + 1 } else { d with clk := lvl }

/-- The player's buttons change; while STB is HIGH the latch follows them (R216(a)). -/
def PadDevice.press (d : PadDevice) (buttons : BitVec 12) : PadDevice :=
  if d.stb = .high then { d with buttons := buttons }.latch else { d with buttons := buttons }

/-- What the DATA line shows: Q[k] for k ≤ 11, P_PAD_TAIL from there on (R216(c)). -/
def PadDevice.line (params : PadParams) (d : PadDevice) : Level :=
  if d.pos ≤ 11 then (if d.latched.getLsbD d.pos then .high else .low) else params.tail

/-- The block with two reference pads on its pins. -/
structure Bench where
  core : State
  pad0 : PadDevice
  pad1 : PadDevice
  params : PadParams
  deriving DecidableEq, Repr

/-- The pad on data line p. -/
def Bench.pad (b : Bench) : Pad → PadDevice
  | .pad0 => b.pad0
  | .pad1 => b.pad1

/-- The block with the levels the pads show now as the answers of its next reads. -/
def Bench.lines (b : Bench) : State :=
  b.core.setEnv
    { b.core.env with
      data0 := { b.core.env.data0 with pending := [b.pad0.line b.params] }
      data1 := { b.core.env.data1 with pending := [b.pad1.line b.params] } }

/-- A pad sees one traced event: writes to the shared strobe and clock lines reach it (R95, R215). -/
def PadDevice.see (c : Config) (params : PadParams) (d : PadDevice) : Event → PadDevice
  | .wr pin lvl =>
    if pin = c.pinStb then d.seeStrobe lvl
    else if pin = c.pinClk then d.seeClock params.edge lvl
    else d
  | _ => d

/-- The bench after the block has gone to state t: both pads have seen the events t traced. -/
def Bench.after (b : Bench) (t : State) : Bench :=
  let new := t.trace.drop b.core.trace.length
  { b with
    core := t
    pad0 := new.foldl (PadDevice.see t.cfg b.params) b.pad0
    pad1 := new.foldl (PadDevice.see t.cfg b.params) b.pad1 }

/-- Let the block do something while the pads drive its data lines. -/
def Bench.drive (run : State → Answer) (b : Bench) : Host.Outcome Bench Fault Refusal :=
  match run b.lines with
  | .next t => .next (b.after t)
  | .fault f => .fault f
  | .refused r => .refused r

/-- One step of the block on the bench. -/
def Bench.step (b : Bench) : Host.Outcome Bench Fault Refusal := b.drive Machine.step

/-- Execute micro-ops in order on the bench. -/
def Bench.execAll : List Instr → Bench → Host.Outcome Bench Fault Refusal
  | [], b => .next b
  | i :: rest, b =>
    match b.drive (exec i) with
    | .next c => Bench.execAll rest c
    | .fault f => .fault f
    | .refused r => .refused r

end Sys2Proof.Machine
end

