-- ==== Sys2Proof/Safety.lean ====
section
/-! DEFINITION. What counts as a legal state and a safe run, in the terms the obligations use: the state
invariant, the states of the reference micro-program (43_reference_sequence.md R188), and conformance (R182). -/

namespace Sys2Proof.Machine

/-- Bits 12 to 15 of a mask are 0 (R48). -/
def maskClean (m : Mask) : Prop := m.extractLsb' 12 4 = 0#4

/-- EXIT is the code that REASON calls for (R50, R201). -/
def exitMatches (s : State) : Prop :=
  match s.reason with
  | .none => s.exit = none
  | .gpioInit => s.exit = some s.cfg.exitFail
  | .sinkInit => s.exit = some s.cfg.exitFail
  | .emit => False
  | .emitLimit => s.exit = some s.cfg.exitFail
  | .cancel => s.exit = some 0
  | .kill => s.exit = some s.cfg.exitKill

/-- What every reachable state meets. -/
structure Inv (s : State) : Prop where
  /-- INITIALIZING is the reset state: nothing executes in it but INIT, which leaves it (R41, R241). -/
  initializing_is_reset : s.mode = .initializing → s = State.resetWith s.cfg s.env
  /-- In POLLING the pins are as INIT sets them and the sink is open (R45, R49, R116). -/
  polling_is_configured : s.mode = .polling → s.pinsConfigured = true ∧ s.sinkOpen = true
  /-- In POLLING a finite write-failure limit has not been reached (R146). -/
  polling_below_limit : s.mode = .polling → s.cfg.accepted = true → limitReached s = false
  /-- EXIT and REASON are set exactly in TERMINATED (R50, R51). -/
  ended_has_reason : s.mode = .terminated ↔ s.reason ≠ .none
  /-- EXIT is the code its REASON calls for (R201). -/
  exit_matches : exitMatches s
  /-- The sink is closed on the cancellation exit (R49, R161). -/
  cancel_closes : s.reason = .cancel → s.sinkOpen = false
  /-- Bits 12 to 15 of both masks are 0 (R48). -/
  masks_clean : maskClean s.mask0 ∧ maskClean s.mask1
  /-- A run that has ended ends its TRACE with Exit or Killed (R161, R202, R207). -/
  ended_traced : s.mode = .terminated →
    (∃ code, s.exit = some code ∧ s.trace.getLast? = some (.exit code)) ∨
      (s.reason = .kill ∧ s.trace.getLast? = some .killed)

/-- The state is ready to fetch: the configuration is accepted, the run has not ended, and no kill falls at
this boundary. -/
def Ready (s : State) : Prop := s.cfg.accepted = true ∧ s.mode ≠ .terminated ∧ killDue s = false

/-- The mode in which a micro-op runs (R115). -/
def modeOf : Instr → Mode
  | .init => .initializing
  | .clkl => .polling
  | .clkh => .polling
  | .stbl => .polling
  | .stbh => .polling
  | .smp _ _ => .polling
  | .emk _ _ => .polling
  | .sync => .polling
  | .chkc => .polling
  | .wait => .polling
  | .jmp _ => .polling

/-- The state runs the reference micro-program of its own parameters, at an address of it: INIT at address 0
before POLLING, one of the later addresses in POLLING (R180, R188). -/
def RunsReference (s : State) : Prop :=
  s.cfg.accepted = true ∧ s.cfg.rom = refRom s.cfg.trailingClock s.cfg.syncMode ∧
    (s.mode = .initializing → s.upc = 0#12) ∧
    (s.mode = .polling → 1 ≤ s.upc.toNat ∧ s.upc.toNat < s.cfg.rom.length)

/-- What conformance compares (R182): TRACE, MODE, EXIT and REASON. upc and ROM are not observable. -/
structure Observation where
  trace : List Event
  mode : Mode
  exit : Option ExitCode
  reason : Reason
  deriving DecidableEq, Repr

/-- The observation of a state (R182). -/
def State.observe (s : State) : Observation := ⟨s.trace, s.mode, s.exit, s.reason⟩

/-- The state after n steps of the block, where there is one. -/
def stateAfter (n : Nat) (s : State) : Option State :=
  match Sys2Proof.core.run n s with
  | .next t => some t
  | .fault _ => none
  | .refused _ => none

/-- Any block, hard-wired or micro-coded, seen only through what it shows: a run for every configuration and
environment, observed after every number of its own steps (R182). -/
structure Block where
  Internal : Type
  start : Config → Env → Internal
  next : Internal → Option Internal
  observe : Internal → Observation

/-- The block's internal state after n of its own steps. -/
def Block.after (b : Block) : Nat → b.Internal → Option b.Internal
  | 0, x => some x
  | n + 1, x => (b.next x).bind (b.after n)

/-- Events l are among those some observation of a run shows first. -/
def shows (observed : Nat → Option Observation) (l : List Event) : Prop :=
  ∃ n o, observed n = some o ∧ l <+: o.trace

/-- o is the final observation of a run: the run has ended with it (R244). -/
def endsWith (observed : Nat → Option Observation) (o : Observation) : Prop :=
  o.mode = .terminated ∧ ∃ n, observed n = some o

/-- Conformance (R182): for every accepted configuration with the reference ROM and every environment, the
block shows the same TRACE as the reference micro-program and ends with the same observation or not at all. -/
def Conforms (b : Block) : Prop :=
  ∀ (c : Config) (e : Env), c.accepted = true → c.rom = refRom c.trailingClock c.syncMode →
    (∀ l, shows (fun n => (b.after n (b.start c e)).map b.observe) l ↔
      shows (fun n => (stateAfter n (State.resetWith c e)).map State.observe) l) ∧
    (∀ o, endsWith (fun n => (b.after n (b.start c e)).map b.observe) o ↔
      endsWith (fun n => (stateAfter n (State.resetWith c e)).map State.observe) o)

end Sys2Proof.Machine
end

