-- ==== Sys2Proof/Certificates/Slice0/Obligations.lean ====
section
/-! DEFINITION. The statements for the provers. Each docstring names the rules of spec/ it formalises. -/

open Sys2Proof Sys2Proof.Machine

/-! ## Encoding (30_encoding.md) -/

/-- R101 to R105: the word of a well-formed micro-op decodes to that micro-op, with every operand at every
value its field admits. -/
def Obligations.DecodeOfEncodeIsTheInstruction : Prop :=
  ∀ i : Instr, i.wf = true → decode (encode i) = .ok i

/-- R102, R106: a word that decodes has one meaning: the micro-op is well formed and its word is that word. -/
def Obligations.DecodedWordReencodesToItself : Prop :=
  ∀ (w : Word) (i : Instr), decode w = .ok i → i.wf = true ∧ encode i = w

/-- R106 on the number of the word: which words are illegal. -/
def Obligations.IllegalWordsAreRefusedAndOthersHaveOneRow : Prop :=
  ∀ w : Word,
    let op := w.toNat / 4096
    let illegal :=
      (op = 0 ∨ 9 ≤ op) ∨
      ((op = 1 ∨ op = 5 ∨ op = 6 ∨ op = 7) ∧ w.toNat % 4096 ≠ 0) ∨
      (op = 2 ∧ (w.toNat / 512 % 8 ≠ 0 ∨ w.toNat / 2 % 128 ≠ 0)) ∨
      ((op = 3 ∨ op = 4) ∧ (w.toNat / 512 % 8 ≠ 0 ∨ w.toNat / 16 % 16 ≠ 0 ∨ 12 ≤ w.toNat % 16))
    (illegal →
      (∃ why, decode w = .error why) ∧
      ∀ s : State, Ready s → s.cfg.rom[s.upc.toNat]? = some w → ∃ why, step s = .fault (.illegal why)) ∧
    (¬ illegal →
      ∃ i, decode w = .ok i ∧ i.row ∈ opcodeTable ∧ w &&& i.row.mask = i.row.pattern ∧
        i.row.mnemonic = i.mnemonic ∧
        ∀ r ∈ opcodeTable, w &&& r.mask = r.pattern → r = i.row)

/-- Words written out from R101's formats (95_test_vectors.md L2.1) and what they stand for. -/
def Obligations.WrittenOutWordsDecode : Prop :=
  decode 0b0001000000000000#16 = .ok .init ∧ decode 0b0010000000000000#16 = .ok .clkl ∧
  decode 0b0010000000000001#16 = .ok .clkh ∧ decode 0b0010000100000000#16 = .ok .stbl ∧
  decode 0b0010000100000001#16 = .ok .stbh ∧ decode 0b0011000000001011#16 = .ok (.smp .pad0 11#4) ∧
  decode 0b0011000100000000#16 = .ok (.smp .pad1 0#4) ∧ decode 0b0100000100001011#16 = .ok (.emk .pad1 11#4) ∧
  decode 0b0101000000000000#16 = .ok .sync ∧ decode 0b0110000000000000#16 = .ok .chkc ∧
  decode 0b0111000000000000#16 = .ok .wait ∧ decode 0b1000111111111111#16 = .ok (.jmp 4095#12)

/-! ## Reset and configuration (00_scope.md R22; 70_reset_and_hazards.md R240, R241) -/

/-- R240, R41 to R53: reset, under every configuration and environment, leaves every field at its value. -/
def Obligations.ResetLeavesEveryFieldAtItsValue : Prop :=
  ∀ (c : Config) (e : Env),
    let s := State.resetWith c e
    s.mode = .initializing ∧ s.upc = 0#12 ∧ s.clkQ = .low ∧ s.stbQ = .low ∧
    (∀ role, s.pinMode role = .unconfigured) ∧ (∀ p, s.mask p = 0x0000#16) ∧ s.sinkOpen = false ∧
    s.exit = none ∧ s.reason = .none ∧ s.failCnt = 0 ∧ s.trace = [] ∧ s.cfg = c ∧ s.env = e ∧
    State.reset = State.resetWith State.reset.cfg State.reset.env

/-- R22, R209: what a well-formed configuration is, and that boot refuses every other with F_CONFIG. That every step
refuses it again is the model's own, DEDUCED (log entry 6). -/
def Obligations.IllFormedConfigurationIsRefused : Prop :=
  ∀ c : Config,
    (c.wf = true ↔
      ([c.pinClk, c.pinStb, c.pinData0, c.pinData1].Nodup ∧
        (∀ p, ∀ j : Fin 12, (c.table p)[j].sel ≠ 0#16) ∧
        (∀ j k : Fin 12, (c.table .pad0)[j].key ≠ (c.table .pad1)[k].key) ∧
        1 ≤ c.rom.length ∧ c.rom.length ≤ 4096)) ∧
    (c.wf = false → (∀ e, boot c e = .fault .config) ∧ ∀ s : State, s.cfg = c → step s = .fault .config)

/-- R82, R16, R17, R19, R20, R21: the reference configuration is accepted, has the reference selectors and
policy parameters and the reference ROM. Its pins, keys and delay are the model's choice (log entry 4) and are
not stated. -/
def Obligations.ReferenceConfigurationIsAccepted : Prop :=
  referenceConfig.accepted = true ∧
  (∀ p, ∀ j : Fin 12, (referenceConfig.table p)[j].sel = 1#16 <<< j.val) ∧
  referenceConfig.trailingClock = false ∧ referenceConfig.syncMode = .perPad ∧ referenceConfig.exitFail = 1 ∧
  referenceConfig.failLimit = none ∧ referenceConfig.cancelPresent = true ∧
  referenceConfig.rom = refRom false .perPad

/-- R108, R109, R180: the assembly text of R180 assembles to RefROM, with the four lengths R180 gives. -/
def Obligations.ReferenceTextAssemblesToRefRom : Prop :=
  (∀ tc sm, assembleText tc sm refText = some (refRom tc sm)) ∧
  (refRom false .perPad).length = 102 ∧ (refRom false .perKey).length = 124 ∧
  (refRom true .perPad).length = 106 ∧ (refRom true .perKey).length = 128

/-! ## The sequencer step (40_pin_sequencer.md R115; 60_exceptions.md R203, R207, R209) -/

/-- A step runs the decoded instruction: with no kill at the boundary, step is exec of the instruction the word
at upc decodes to, in the state with the kill countdown moved on; with no kill laid down that state is the
state itself. -/
def Obligations.StepRunsTheDecodedInstruction : Prop :=
  ∀ (s : State) (w : Word) (i : Instr), Ready s → s.cfg.rom[s.upc.toNat]? = some w → decode w = .ok i →
    step s = exec i { s with env := { s.env with kill := s.env.kill.map Nat.pred } } ∧
    (s.env.kill = none → step s = exec i s)

/-- R209, R115: a step faults exactly where R209 says, each time with its own fault, F_PC in both of its ways: a
fetch at or beyond L_ROM, and a micro-op other than JMP at 4095 that does not end the run. In the second the state
at the fault is the one in which the micro-op has had the effect it has at address 0. The model's own in this
statement: the range checks in accepted (log entry 6), the countdown in passBoundary and in Ready (log entry 3), and
that F_PC carries the state at the fault (log entry 9). -/
def Obligations.StepFaultsExactlyWhereTheRuleSays : Prop :=
  ∀ s : State,
    (step s = .fault .config ↔ s.cfg.accepted = false) ∧
    (step s = .fault .mode ↔ Ready s ∧ ∃ w i, s.cfg.rom[s.upc.toNat]? = some w ∧ decode w = .ok i ∧
      ((i = .init ∧ s.mode ≠ .initializing) ∨ (i ≠ .init ∧ s.mode ≠ .polling))) ∧
    (∀ why, step s = .fault (.illegal why) ↔
      Ready s ∧ ∃ w, s.cfg.rom[s.upc.toNat]? = some w ∧ decode w = .error why) ∧
    (∀ stopped, step s = .fault (.pc stopped) ↔
      Ready s ∧
        ((s.cfg.rom.length ≤ s.upc.toNat ∧ stopped = passBoundary s) ∨
         (s.upc = 4095#12 ∧ ∃ w i, s.cfg.rom[s.upc.toNat]? = some w ∧ decode w = .ok i ∧ (∀ a, i ≠ .jmp a) ∧
          stopped.upc = 4095#12 ∧ stopped.mode ≠ .terminated ∧
          exec i { passBoundary s with upc := 0#12 } = .next { stopped with upc := 1#12 })))

/-- R42, R115: every micro-op but JMP adds one to upc unless it ends the run, and then upc keeps its address; JMP
sets upc to its target; at 4095 the model faults F_PC instead of wrapping; upc is 0 at reset. That F_PC carries the
state in which the micro-op has had the effect it has at every other address is DEDUCED from R115 and L2.9 (log
entry 9). -/
def Obligations.UpcAdvancesHoldsOrJumps : Prop :=
  (∀ (i : Instr) (s t : State), exec i s = .next t →
    (∀ a, i = .jmp a → t.upc = a) ∧
    ((∀ a, i ≠ .jmp a) →
      (t.mode = .terminated → t.upc = s.upc) ∧
      (t.mode ≠ .terminated → t.upc = s.upc + 1#12 ∧ s.upc.toNat + 1 ≠ 4096))) ∧
  (∀ (i : Instr) (s : State), i.wf = true → (∀ a, i ≠ .jmp a) → s.mode = modeOf i → s.upc.toNat + 1 = 4096 →
    ∃ t, ((exec i s = .next t ∧ t.mode = .terminated) ∨
        (exec i s = .fault (.pc t) ∧ t.mode ≠ .terminated ∧
          exec i { s with upc := 0#12 } = .next { t with upc := 1#12 })) ∧ t.upc = s.upc) ∧
  (∀ c e, (State.resetWith c e).upc = 0#12)

/-- R203: TERMINATED is final. No micro-op executes in it and no step leaves it. -/
def Obligations.TerminatedIsFinal : Prop :=
  ∀ s : State, s.mode = .terminated →
    (∀ t, step s ≠ .next t) ∧ (∀ i t, exec i s ≠ .next t)

/-- R207: a kill at a step boundary outside TERMINATED, and all it changes. That the kill falls here is said by the
model's countdown (log entry 3). -/
def Obligations.KillEndsTheRunAtTheBoundary : Prop :=
  ∀ s : State, s.cfg.accepted = true → s.mode ≠ .terminated → s.env.kill = some 0 →
    step s = .next { s with
      trace := s.trace ++ [.killed], reason := .kill, exit := some s.cfg.exitKill, mode := .terminated }

/-! ## Pin sequencer (40_pin_sequencer.md R120 to R127) -/

/-- R120, R121: CLKH and CLKL, their words, their effect and their F_MODE. -/
def Obligations.ClockMicroOpsWriteTheClockLine : Prop :=
  decode 0x2001#16 = .ok .clkh ∧ decode 0x2000#16 = .ok .clkl ∧
  ∀ s : State,
    (s.mode = .polling → s.upc ≠ 4095#12 →
      exec .clkh s = .next { s with
        clkQ := .high, trace := s.trace ++ [.wr s.cfg.pinClk .high], upc := s.upc + 1#12 } ∧
      exec .clkl s = .next { s with
        clkQ := .low, trace := s.trace ++ [.wr s.cfg.pinClk .low], upc := s.upc + 1#12 }) ∧
    (s.mode ≠ .polling → exec .clkh s = .fault .mode ∧ exec .clkl s = .fault .mode)

/-- R122, R123: STBH and STBL, their words, their effect and their F_MODE. -/
def Obligations.StrobeMicroOpsWriteTheStrobeLine : Prop :=
  decode 0x2101#16 = .ok .stbh ∧ decode 0x2100#16 = .ok .stbl ∧
  ∀ s : State,
    (s.mode = .polling → s.upc ≠ 4095#12 →
      exec .stbh s = .next { s with
        stbQ := .high, trace := s.trace ++ [.wr s.cfg.pinStb .high], upc := s.upc + 1#12 } ∧
      exec .stbl s = .next { s with
        stbQ := .low, trace := s.trace ++ [.wr s.cfg.pinStb .low], upc := s.upc + 1#12 }) ∧
    (s.mode ≠ .polling → exec .stbh s = .fault .mode ∧ exec .stbl s = .fault .mode)

/-- R43, R44: while the block runs, the clock pin drives CLK_Q and the strobe pin STB_Q once configured OUTPUT; before
that, and on the data pins, the block drives nothing. That it drives nothing on those pins in TERMINATED too is the
model's DESIGN CHOICE (log entry 21). After the run the level on a pin configured OUTPUT is a free value, of which
nothing is said here (log entry 21). -/
def Obligations.OutputLinesFollowTheirRegisters : Prop :=
  ∀ s : State,
    (s.mode ≠ .terminated → s.pinMode .clk = .output → s.drives .clk = some s.clkQ) ∧
    (s.mode ≠ .terminated → s.pinMode .stb = .output → s.drives .stb = some s.stbQ) ∧
    (s.pinMode .clk ≠ .output → s.drives .clk = none) ∧ (s.pinMode .stb ≠ .output → s.drives .stb = none) ∧
    ∀ p, s.drives (.data p) = none

/-- R124: SMP p, i stores the inverted level in bit i of M[p], leaves the other bits and the other mask alone,
traces one read of pad p's pin, and changes nothing else; its words; F_MODE; F_ILLEGAL for i ≥ 12 (log entry 11). The level
read is the next answer of pad p's port, whatever it is. -/
def Obligations.SampleStoresTheInvertedLevel : Prop :=
  ∀ (p : Pad) (i : Fin 12) (s : State),
    decode (BitVec.ofNat 16 (0x3000 + 256 * padNumber p + i.val)) = .ok (.smp p (BitVec.ofNat 4 i.val)) ∧
    (s.mode = .polling → s.upc ≠ 4095#12 →
      ∃ t, exec (.smp p (BitVec.ofNat 4 i.val)) s = .next t ∧
        (∀ k, k < 16 → (t.mask p).getLsbD k =
          if k = i.val then decide (s.nextLevel p = .low) else (s.mask p).getLsbD k) ∧
        t.mask p.other = s.mask p.other ∧
        t.trace = s.trace ++ [.rd (s.cfg.pin (.data p)) (s.nextLevel p)] ∧
        t.upc = s.upc + 1#12 ∧ t.env = s.env.setData p (s.env.data p).tail ∧
        { t with mask0 := s.mask0, mask1 := s.mask1, trace := s.trace, upc := s.upc, env := s.env } = s) ∧
    (s.mode ≠ .polling → exec (.smp p (BitVec.ofNat 4 i.val)) s = .fault .mode) ∧
    (∀ n : BitVec 4, 12 ≤ n.toNat → exec (.smp p n) s = .fault (.illegal .index))

/-- R125: the mask DECODE p assembles from the twelve levels it reads, starting from a mask whose bits 12 to 15
are 0 (R48). It completes, and everything it leaves alone. -/
def Obligations.DecodeAssemblesTheMask : Prop :=
  ∀ (tc : Bool) (p : Pad) (s : State), s.mode = .polling → s.upc.toNat + decodeLength tc ≤ 4095 →
    maskClean (s.mask p) →
    ∃ t, execAll (decodeOps tc p) s = .next t ∧
      (t.mask p).toNat = ((List.range 12).map fun k => if s.levels p k = .low then 2 ^ k else 0).sum ∧
      t.mask p.other = s.mask p.other ∧ t.mode = .polling ∧ t.upc.toNat = s.upc.toNat + decodeLength tc ∧
      t.clkQ = .low ∧ t.stbQ = .low ∧ t.failCnt = s.failCnt ∧ t.sinkOpen = s.sinkOpen ∧
      (∀ role, t.pinMode role = s.pinMode role) ∧ t.cfg = s.cfg

/-- R127: DECODE p appends exactly these pin events, in order. -/
def Obligations.DecodeAppendsItsPinTrace : Prop :=
  ∀ (tc : Bool) (p : Pad) (s : State), s.mode = .polling → s.upc.toNat + decodeLength tc ≤ 4095 →
    let strobe : List Event := [.wr s.cfg.pinStb .high, .wr s.cfg.pinStb .low]
    let clock : List Event := [.wr s.cfg.pinClk .high, .wr s.cfg.pinClk .low]
    let read (k : Nat) : List Event := [.rd (s.cfg.pin (.data p)) (s.levels p k)]
    ∃ t, execAll (decodeOps tc p) s = .next t ∧
      t.trace = s.trace ++
        (strobe ++ read 0 ++ (List.range 11).flatMap (fun k => clock ++ read (k + 1)) ++ if tc then clock else [])

/-- R126: M[p] after DECODE p depends on the twelve levels read from P_PIN_DATA[p] and on nothing else: two
states that agree on those levels get the same mask, whatever bits 0 to 11 of their masks, the other pad's levels,
their configuration and the rest are. Premise: bits 12 to 15 of M[p] are 0 in both, which R48 says of every state
and MaskHighBitsStayZero states as an invariant. -/
def Obligations.DecodedMaskDependsOnItsOwnLineOnly : Prop :=
  ∀ (tc tc' : Bool) (p : Pad) (s s' t t' : State), maskClean (s.mask p) → maskClean (s'.mask p) →
    (∀ k, k < 12 → s.levels p k = s'.levels p k) →
    execAll (decodeOps tc p) s = .next t → execAll (decodeOps tc' p) s' = .next t' →
    t.mask p = t'.mask p

/-! ## Mapper and emission (41_mapper.md R140 to R146) -/

/-- R140: PRESSED(m, sel) holds when every bit of sel is set in m; a single-bit selector tests its bit; a
selector with a bit in 12..15 is never pressed for a mask whose bits 12 to 15 are 0; the zero selector always
is. -/
def Obligations.PressedTestsTheWholeSelector : Prop :=
  ∀ m sel : Mask,
    (pressed m sel = true ↔ m &&& sel = sel) ∧
    (pressed m sel = true ↔ ∀ k, k < 16 → sel.getLsbD k = true → m.getLsbD k = true) ∧
    (∀ i, i < 16 → pressed m (1#16 <<< i) = m.getLsbD i) ∧
    (maskClean m → (∃ k, 12 ≤ k ∧ k < 16 ∧ sel.getLsbD k = true) → pressed m sel = false) ∧
    pressed m 0#16 = true

/-- R141: MAP is a list of exactly 12 pairs in table order, one per entry, pressed or not. -/
def Obligations.MapHasOnePairPerEntryInOrder : Prop :=
  ∀ (m : Mask) (table : Vector TableEntry 12),
    (mapMask m table).length = 12 ∧
    ∀ j : Fin 12, (mapMask m table)[j.val]? = some (table[j].key, (m &&& table[j].sel) == table[j].sel)

/-- R144, R146: EMK p, j emits the key of table entry j with its pressed test against M[p], and handles the
write result; its words; F_MODE; F_ILLEGAL for j ≥ 12 (log entry 11). The write result is the next answer of the event port,
whatever it is. -/
def Obligations.EmkEmitsItsKeyAndHandlesTheResult : Prop :=
  ∀ (p : Pad) (j : Fin 12) (s : State),
    let entry := (s.cfg.table p)[j]
    let pr := (s.mask p &&& entry.sel) == entry.sel
    let env := { s.env with emit := s.env.emit.tail }
    let i := Instr.emk p (BitVec.ofNat 4 j.val)
    decode (BitVec.ofNat 16 (0x4000 + 256 * padNumber p + j.val)) = .ok i ∧
    (s.mode = .polling → s.nextEmit = .ok → s.upc ≠ 4095#12 →
      exec i s = .next { s with
        trace := s.trace ++ [.key entry.key pr .ok], failCnt := 0, env := env, upc := s.upc + 1#12 }) ∧
    (s.mode = .polling → s.nextEmit = .fail → s.upc ≠ 4095#12 →
      (∀ limit, s.cfg.failLimit = some limit → s.failCnt + 1 < limit) →
      exec i s = .next { s with
        trace := s.trace ++ [.key entry.key pr .fail, .log .emit], failCnt := s.failCnt + 1, env := env,
        upc := s.upc + 1#12 }) ∧
    (s.mode = .polling → s.nextEmit = .fail →
      (∃ limit, s.cfg.failLimit = some limit ∧ limit ≤ s.failCnt + 1) →
      exec i s = .next { s with
        trace := s.trace ++
          [.key entry.key pr .fail, .log .emit, .log .emitLimit, .exit s.cfg.exitFail],
        failCnt := s.failCnt + 1, env := env, reason := .emitLimit, exit := some s.cfg.exitFail,
        mode := .terminated }) ∧
    (s.mode ≠ .polling → exec i s = .fault .mode) ∧
    (∀ n : BitVec 4, 12 ≤ n.toNat → exec (.emk p n) s = .fault (.illegal .index))

/-- R145, R146: SYNC emits one marker and handles the write result; its word; F_MODE. -/
def Obligations.SyncEmitsAMarkerAndHandlesTheResult : Prop :=
  decode 0x5000#16 = .ok .sync ∧
  ∀ s : State,
    let env := { s.env with emit := s.env.emit.tail }
    (s.mode = .polling → s.nextEmit = .ok → s.upc ≠ 4095#12 →
      exec .sync s = .next { s with
        trace := s.trace ++ [.sync .ok], failCnt := 0, env := env, upc := s.upc + 1#12 }) ∧
    (s.mode = .polling → s.nextEmit = .fail → s.upc ≠ 4095#12 →
      (∀ limit, s.cfg.failLimit = some limit → s.failCnt + 1 < limit) →
      exec .sync s = .next { s with
        trace := s.trace ++ [.sync .fail, .log .emit], failCnt := s.failCnt + 1, env := env,
        upc := s.upc + 1#12 }) ∧
    (s.mode = .polling → s.nextEmit = .fail →
      (∃ limit, s.cfg.failLimit = some limit ∧ limit ≤ s.failCnt + 1) →
      exec .sync s = .next { s with
        trace := s.trace ++ [.sync .fail, .log .emit, .log .emitLimit, .exit s.cfg.exitFail],
        failCnt := s.failCnt + 1, env := env, reason := .emitLimit, exit := some s.cfg.exitFail,
        mode := .terminated }) ∧
    (s.mode ≠ .polling → exec .sync s = .fault .mode)

/-- R204: a failed write that does not reach a finite limit never ends the run: the micro-op completes in POLLING,
one Log(3) stands right after the failed event, and execution continues with the next micro-op. -/
def Obligations.FailedWriteIsLoggedAndExecutionContinues : Prop :=
  ∀ (i : Instr) (s : State), (i = .sync ∨ ∃ p, ∃ j : Fin 12, i = .emk p (BitVec.ofNat 4 j.val)) →
    s.mode = .polling → s.upc ≠ 4095#12 → s.nextEmit = .fail →
    (∀ limit, s.cfg.failLimit = some limit → s.failCnt + 1 < limit) →
    ∃ t failed, exec i s = .next t ∧ t.mode = .polling ∧ t.upc = s.upc + 1#12 ∧
      t.trace = s.trace ++ [failed, .log .emit] ∧ t.failCnt = s.failCnt + 1 ∧
      (failed = .sync .fail ∨ ∃ key pr, failed = .key key pr .fail)

/-- R185: the events EMITPAD p appends when every write succeeds, for both placements of the markers, with the
map under M[p] in table order; it completes, and what it leaves alone. -/
def Obligations.EmitPadAppendsTheMapAndItsMarkers : Prop :=
  ∀ (sm : SyncMode) (p : Pad) (s : State), s.mode = .polling → s.upc.toNat + emitPadLength sm ≤ 4095 →
    (∀ k, k < emitPadLength sm → s.env.emit.answer Config.freeEmit k = .ok) →
    ∃ t, execAll (emitPadOps sm p) s = .next t ∧
      t.trace = s.trace ++ emitPadTrace s.cfg sm p (s.mask p) ∧
      t.mode = .polling ∧ t.upc.toNat = s.upc.toNat + emitPadLength sm ∧ t.failCnt = 0 ∧
      { t with trace := s.trace, upc := s.upc, failCnt := s.failCnt, env := s.env } = s ∧
      { t.env with emit := s.env.emit } = s.env

/-! ## Keys of any type (00_scope.md R14) -/

/-- R14, R12: KeyCode is a type parameter with decidable equality. For every such type K and every configuration
over K, the configuration the machine runs has the selectors of the tables and stands for their keys; its keys are
disjoint exactly when those of K are (R22(c)); EMK emits the key of K that its table entry names; and every step
keeps the configuration. That the machine runs on numbers of the keys is the model's own (log entry 7). -/
def Obligations.KeyTypeIsAParameter : Prop :=
  ∀ (K : Type) [DecidableEq K] (c : KeyedConfig K),
    (∀ (p : Pad) (j : Fin 12),
      (c.coded.table p)[j].sel = (c.settings.table p)[j].sel ∧
      c.keyOf (c.coded.table p)[j].key = some (c.keys p)[j]) ∧
    (c.coded.keysDisjoint = true ↔ ∀ j k : Fin 12, c.keys0[j] ≠ c.keys1[k]) ∧
    (∀ (s : KeyedState K) (p : Pad) (j : Fin 12), s.keyed = c → s.block.cfg = c.coded →
      s.block.mode = .polling → s.block.upc ≠ 4095#12 →
      let sel := (c.settings.table p)[j].sel
      ∃ t rest, s.exec (.emk p (BitVec.ofNat 4 j.val)) = .next t ∧
        t.trace = s.trace ++ .key (c.keys p)[j] ((s.block.mask p &&& sel) == sel) s.block.nextEmit :: rest ∧
        (s.block.nextEmit = .ok → rest = [])) ∧
    (∀ e : Env, (c.reset e).keyed = c ∧ (c.reset e).block.cfg = c.coded) ∧
    ∀ s t : KeyedState K, s.keyed = c → s.block.cfg = c.coded → s.step = .next t →
      t.keyed = c ∧ t.block.cfg = c.coded

/-- R14: a key is carried and never inspected: renaming every key, in the tables and in TRACE, before a micro-op is
renaming them after it, for every renaming, even one that makes keys equal. -/
def Obligations.KeysAreCarriedNotInspected : Prop :=
  ∀ (f : KeyCode → KeyCode) (i : Instr) (s : State),
    (∀ t, exec i s = .next t → exec i (s.renameKeys f) = .next (t.renameKeys f)) ∧
    (∀ t, exec i s = .fault (.pc t) → exec i (s.renameKeys f) = .fault (.pc (t.renameKeys f))) ∧
    (exec i s = .fault .mode ↔ exec i (s.renameKeys f) = .fault .mode)

/-! ## Control (42_control.md R160 to R163; 60_exceptions.md R202) -/

/-- R160: INIT by its two draws: success, a GPIO failure with no pin configured, a sink failure with the pins
configured; its word; F_MODE outside INITIALIZING. -/
def Obligations.InitConfiguresOrFails : Prop :=
  decode 0x1000#16 = .ok .init ∧
  ∀ s : State,
    let c := s.cfg
    let configured : List Event := [.gpioInit .ok, .cfg c.pinClk .output, .cfg c.pinStb .output,
      .cfg c.pinData0 .input, .cfg c.pinData1 .input]
    let envG := { s.env with gpio := s.env.gpio.tail }
    let envS := { s.env with gpio := s.env.gpio.tail, sink := s.env.sink.tail }
    (s.mode = .initializing → s.nextGpio = .ok → s.nextSink = .ok → s.upc ≠ 4095#12 →
      exec .init s = .next { s with
        trace := s.trace ++ configured ++ [.sinkInit .ok], env := envS,
        pinModeClk := .output, pinModeStb := .output, pinModeData0 := .input, pinModeData1 := .input,
        sinkOpen := true, mode := .polling, upc := s.upc + 1#12 }) ∧
    (s.mode = .initializing → s.nextGpio = .fail →
      exec .init s = .next { s with
        trace := s.trace ++ [.gpioInit .fail, .log .gpioInit, .exit c.exitFail], env := envG,
        reason := .gpioInit, exit := some c.exitFail, mode := .terminated }) ∧
    (s.mode = .initializing → s.nextGpio = .ok → s.nextSink = .fail →
      exec .init s = .next { s with
        trace := s.trace ++ configured ++ [.sinkInit .fail, .log .sinkInit, .exit c.exitFail], env := envS,
        pinModeClk := .output, pinModeStb := .output, pinModeData0 := .input, pinModeData1 := .input,
        reason := .sinkInit, exit := some c.exitFail, mode := .terminated }) ∧
    (s.mode ≠ .initializing → exec .init s = .fault .mode)

/-- R161: CHKC without the input, with the input at 0, and with the input at 1; its word; F_MODE. -/
def Obligations.ChkcSamplesTheCancelInput : Prop :=
  decode 0x6000#16 = .ok .chkc ∧
  ∀ s : State,
    let env := { s.env with cancel := s.env.cancel.tail }
    (s.mode = .polling → s.cfg.cancelPresent = false → s.upc ≠ 4095#12 →
      exec .chkc s = .next { s with upc := s.upc + 1#12 }) ∧
    (s.mode = .polling → s.cfg.cancelPresent = true → s.nextCancel = false → s.upc ≠ 4095#12 →
      exec .chkc s = .next { s with trace := s.trace ++ [.cancel false], env := env, upc := s.upc + 1#12 }) ∧
    (s.mode = .polling → s.cfg.cancelPresent = true → s.nextCancel = true →
      exec .chkc s = .next { s with
        trace := s.trace ++ [.cancel true, .close, .exit 0], env := env, sinkOpen := false,
        reason := .cancel, exit := some 0, mode := .terminated }) ∧
    (s.mode ≠ .polling → exec .chkc s = .fault .mode)

/-- R162: WAIT appends Delay(P_CYCLE_DELAY) and changes nothing else; its word; F_MODE. -/
def Obligations.WaitAppendsTheCycleDelay : Prop :=
  decode 0x7000#16 = .ok .wait ∧
  ∀ s : State,
    (s.mode = .polling → s.upc ≠ 4095#12 →
      exec .wait s = .next { s with trace := s.trace ++ [.delay s.cfg.cycleDelay], upc := s.upc + 1#12 }) ∧
    (s.mode ≠ .polling → exec .wait s = .fault .mode)

/-- R163: JMP t sets upc to t and changes nothing else, from every address and to every address; a target at
or beyond L_ROM faults F_PC at the next fetch, not at the JMP; its words; F_MODE. That F_PC carries the state before
the fetch is DEDUCED from R115, R208(d) and L2.9 (log entry 9). -/
def Obligations.JmpSetsUpcToItsTarget : Prop :=
  ∀ (t : RomAddr) (s : State),
    decode (BitVec.ofNat 16 (0x8000 + t.toNat)) = .ok (.jmp t) ∧
    (s.mode = .polling → exec (.jmp t) s = .next { s with upc := t }) ∧
    (s.mode = .polling → s.cfg.accepted = true → s.env.kill = none → s.cfg.rom.length ≤ t.toNat →
      step { s with upc := t } = .fault (.pc { s with upc := t })) ∧
    (s.mode ≠ .polling → exec (.jmp t) s = .fault .mode)

/-- R202: fatal(reason), field by field: what it appends and sets, that upc and SINK_OPEN stay, and that no later
micro-op executes. The micro-op that raised it performs nothing after the fatal point: the next state of INIT at a
failed GPIO setup or sink, and of EMK and SYNC at the write-failure limit, is fatal of the state reached there, which
has had what stands before the fatal point and no more; and a micro-op that ends the run, but for CHKC's clean exit,
ends it so, its own address in upc. -/
def Obligations.FatalEntryEndsTheRun : Prop :=
  (∀ (reason : Reason) (s : State),
    fatal reason s = { s with
      trace := s.trace ++ [.log reason, .exit s.cfg.exitFail], reason := reason,
      exit := some s.cfg.exitFail, mode := .terminated } ∧
    (∀ i t, exec i (fatal reason s) ≠ .next t) ∧ (∀ t, step (fatal reason s) ≠ .next t)) ∧
  (∀ s : State,
    let c := s.cfg
    let envG := { s.env with gpio := s.env.gpio.tail }
    (s.mode = .initializing → s.nextGpio = .fail →
      exec .init s = .next (fatal .gpioInit { s with trace := s.trace ++ [.gpioInit .fail], env := envG })) ∧
    (s.mode = .initializing → s.nextGpio = .ok → s.nextSink = .fail →
      exec .init s = .next (fatal .sinkInit { s with
        trace := s.trace ++ [.gpioInit .ok, .cfg c.pinClk .output, .cfg c.pinStb .output, .cfg c.pinData0 .input,
          .cfg c.pinData1 .input, .sinkInit .fail],
        env := { envG with sink := s.env.sink.tail },
        pinModeClk := .output, pinModeStb := .output, pinModeData0 := .input, pinModeData1 := .input })) ∧
    (s.mode = .polling → s.nextEmit = .fail → (∃ limit, c.failLimit = some limit ∧ limit ≤ s.failCnt + 1) →
      let reached (written : Event) : State := { s with
        trace := s.trace ++ [written, .log .emit], failCnt := s.failCnt + 1,
        env := { s.env with emit := s.env.emit.tail } }
      exec .sync s = .next (fatal .emitLimit (reached (.sync .fail))) ∧
      ∀ (p : Pad) (j : Fin 12),
        let entry := (c.table p)[j]
        exec (.emk p (BitVec.ofNat 4 j.val)) s =
          .next (fatal .emitLimit (reached (.key entry.key ((s.mask p &&& entry.sel) == entry.sel) .fail))))) ∧
  ∀ (i : Instr) (s t : State), exec i s = .next t → t.mode = .terminated → t.reason ≠ .cancel →
    ∃ reached, t = fatal t.reason reached ∧ reached.mode = s.mode ∧ reached.upc = s.upc

/-! ## Frames and whole-machine rules -/

/-- The four pin writes change one output register, the trace and upc, and nothing else (R120 to R123). -/
def Obligations.PinWritesChangeNothingElse : Prop :=
  ∀ s t : State,
    ((exec .clkh s = .next t ∨ exec .clkl s = .next t) →
      { t with clkQ := s.clkQ, trace := s.trace, upc := s.upc } = s) ∧
    ((exec .stbh s = .next t ∨ exec .stbl s = .next t) →
      { t with stbQ := s.stbQ, trace := s.trace, upc := s.upc } = s)

/-- The emitting micro-ops change TRACE, FAILCNT, the event port and upc, and at the write-failure limit MODE,
REASON and EXIT; never a mask, a line, a pin mode, the sink or the configuration (R144(d), R145). -/
def Obligations.EmissionChangesNothingElse : Prop :=
  ∀ (i : Instr) (s t : State), (i = .sync ∨ ∃ p n, i = .emk p n) → exec i s = .next t →
    { t with trace := s.trace, failCnt := s.failCnt, upc := s.upc, mode := s.mode, reason := s.reason,
             exit := s.exit, env := s.env } = s ∧
    { t.env with emit := s.env.emit } = s.env ∧
    (t.mode ≠ .terminated → t.mode = s.mode ∧ t.reason = s.reason ∧ t.exit = s.exit)

/-- Which micro-ops write which field: every field of the state is unchanged by every micro-op but those the
rules name for it (R43 to R52, R93). -/
def Obligations.EveryFieldHasItsOwnWriters : Prop :=
  ∀ (i : Instr) (s t : State), exec i s = .next t →
    t.cfg = s.cfg ∧ t.env.kill = s.env.kill ∧
    (i ≠ .clkh → i ≠ .clkl → t.clkQ = s.clkQ) ∧
    (i ≠ .stbh → i ≠ .stbl → t.stbQ = s.stbQ) ∧
    (i ≠ .init → ∀ role, t.pinMode role = s.pinMode role) ∧
    (∀ p, (∀ n, i ≠ .smp p n) → t.mask p = s.mask p ∧ t.env.data p = s.env.data p) ∧
    (i ≠ .init → i ≠ .chkc → t.sinkOpen = s.sinkOpen) ∧
    (i ≠ .sync → (∀ p n, i ≠ .emk p n) → t.failCnt = s.failCnt ∧ t.env.emit = s.env.emit) ∧
    (i ≠ .init → i ≠ .chkc → i ≠ .sync → (∀ p n, i ≠ .emk p n) →
      t.mode = s.mode ∧ t.reason = s.reason ∧ t.exit = s.exit) ∧
    (i ≠ .init → t.env.gpio = s.env.gpio ∧ t.env.sink = s.env.sink) ∧
    (i ≠ .chkc → t.env.cancel = s.env.cancel) ∧
    ((∃ a, i = .jmp a) → t.trace = s.trace)

/-- R52: FAILCNT is 0 at reset and every step keeps it equal to the number of event writes that have failed
since the last that succeeded; with P_FAIL_LIMIT = INF no step depends on it. -/
def Obligations.FailCntCountsConsecutiveFailures : Prop :=
  (∀ c e, (State.resetWith c e).failCnt = 0 ∧ failureStreak (State.resetWith c e).trace = 0) ∧
  (∀ s t : State, s.failCnt = failureStreak s.trace → step s = .next t → t.failCnt = failureStreak t.trace) ∧
  ∀ (s t : State) (n : Nat), s.cfg.failLimit = none → step s = .next t →
    ∃ m, step { s with failCnt := n } = .next { t with failCnt := m }

/-- R53: TRACE is empty at reset, and every step appends at its end: no event is removed or reordered. -/
def Obligations.TraceIsAppendOnly : Prop :=
  (∀ c e, (State.resetWith c e).trace = []) ∧
  ∀ s t : State, step s = .next t → ∃ appended, t.trace = s.trace ++ appended

/-- R93: no step changes the ROM, the tables or any other part of the configuration. -/
def Obligations.ConfigurationIsImmutable : Prop :=
  ∀ s t : State, step s = .next t →
    t.cfg.rom = s.cfg.rom ∧ (∀ p, t.cfg.table p = s.cfg.table p) ∧ t.cfg = s.cfg

/-- R48: bits 12 to 15 of both masks are 0 at reset and no step sets them. -/
def Obligations.MaskHighBitsStayZero : Prop :=
  (∀ c e p, maskClean ((State.resetWith c e).mask p)) ∧
  ∀ s t : State, (∀ p, maskClean (s.mask p)) → step s = .next t → ∀ p, maskClean (t.mask p)

/-- R45: PINMODE is UNCONFIGURED at reset; INIT sets CLK and STB to OUTPUT and both data pins to INPUT when GPIO
setup succeeds; every step that does not run INIT leaves it alone. -/
def Obligations.PinModesAreWrittenByInitOnly : Prop :=
  (∀ c e role, (State.resetWith c e).pinMode role = .unconfigured) ∧
  (∀ s t : State, exec .init s = .next t → s.nextGpio = .ok →
    t.pinMode .clk = .output ∧ t.pinMode .stb = .output ∧ ∀ p, t.pinMode (.data p) = .input) ∧
  ∀ s t : State, step s = .next t → (∃ role, t.pinMode role ≠ s.pinMode role) →
    s.mode = .initializing ∧ ∃ w, s.cfg.rom[s.upc.toNat]? = some w ∧ decode w = .ok .init

/-- R211: reset is in INITIALIZING; a step keeps the mode or makes one of the transitions of the table, each by its
own cause; in INITIALIZING only INIT executes, in POLLING every micro-op but INIT, in TERMINATED none, and each
well-formed micro-op does execute in the mode that may execute it: it does not fault F_MODE, and below address 4095
it has a next state (at 4095 UpcAdvancesHoldsOrJumps says what it does). -/
def Obligations.ModesChangeOnlyAsTheTableSays : Prop :=
  (∀ c e, (State.resetWith c e).mode = .initializing) ∧
  (∀ (i : Instr) (s t : State), exec i s = .next t →
    (s.mode = .initializing ∧ i = .init) ∨ (s.mode = .polling ∧ i ≠ .init)) ∧
  (∀ (i : Instr) (s : State), i.wf = true →
    (s.mode = .initializing ∧ i = .init) ∨ (s.mode = .polling ∧ i ≠ .init) →
    exec i s ≠ .fault .mode ∧ (s.upc ≠ 4095#12 → ∃ t, exec i s = .next t)) ∧
  ∀ s t : State, step s = .next t → t.mode ≠ s.mode →
    (s.mode ≠ .terminated ∧ t.mode = .terminated ∧ t.reason = .kill ∧ s.env.kill = some 0) ∨
    ∃ w i, s.cfg.rom[s.upc.toNat]? = some w ∧ decode w = .ok i ∧
      ((s.mode = .initializing ∧ t.mode = .polling ∧ i = .init ∧ s.nextGpio = .ok ∧ s.nextSink = .ok) ∨
       (s.mode = .initializing ∧ t.mode = .terminated ∧ i = .init ∧
         ((s.nextGpio = .fail ∧ t.reason = .gpioInit) ∨
          (s.nextGpio = .ok ∧ s.nextSink = .fail ∧ t.reason = .sinkInit))) ∨
       (s.mode = .polling ∧ t.mode = .terminated ∧ i = .chkc ∧ s.cfg.cancelPresent = true ∧
         s.nextCancel = true ∧ t.reason = .cancel) ∨
       (s.mode = .polling ∧ t.mode = .terminated ∧ (i = .sync ∨ ∃ p n, i = .emk p n) ∧
         s.nextEmit = .fail ∧ t.reason = .emitLimit ∧
         ∃ limit, s.cfg.failLimit = some limit ∧ limit ≤ s.failCnt + 1))

/-- R56: the fields of the STATUS view. -/
def Obligations.StatusPacksItsFields : Prop :=
  ∀ s : State,
    s.status.toNat % 4 = (match s.mode with | .initializing => 0 | .polling => 1 | .terminated => 2) ∧
    s.status.getLsbD 2 = s.sinkOpen ∧
    s.status.getLsbD 3 = decide (s.pinMode .clk = .output ∧ s.pinMode .stb = .output ∧
      s.pinMode (.data .pad0) = .input ∧ s.pinMode (.data .pad1) = .input) ∧
    s.status.toNat / 16 % 16 = (match s.reason with
      | .none => 0 | .gpioInit => 1 | .sinkInit => 2 | .emit => 3 | .emitLimit => 4 | .cancel => 5 | .kill => 6) ∧
    s.status.toNat / 256 = (match s.exit with | none => 0 | some code => code % 256)

/-- Every state a run starts in meets the invariant. -/
def Obligations.ResetMeetsTheInvariant : Prop :=
  (∀ (c : Config) (e : Env), Inv (State.resetWith c e)) ∧ Inv State.reset

/-- Every step keeps the invariant, from every state that meets it. -/
def Obligations.EveryStepKeepsTheInvariant : Prop :=
  ∀ s t : State, Inv s → step s = .next t → Inv t

/-! ## Refinement and the reference micro-program (43_reference_sequence.md) -/

/-- Stepping through straight-line code in ROM is executing its micro-ops in order: with no kill laid down, and
as long as the run has not ended on the way. -/
def Obligations.SteppingThroughRomExecutesTheListing : Prop :=
  ∀ (ops : List Instr) (s t : State), s.cfg.accepted = true → s.env.kill = none →
    s.mode ≠ .terminated → (∀ i ∈ ops, i.wf = true ∧ ∀ a, i ≠ .jmp a) →
    (∀ k, k < ops.length → s.cfg.rom[s.upc.toNat + k]? = (ops.map encode)[k]?) →
    execAll ops s = .next t → t.mode ≠ .terminated → Sys2Proof.core.run ops.length s = .next t

/-- R188: from every state that runs the reference micro-program, and has not ended, there is a next state,
which runs it too: no model fault occurs. -/
def Obligations.ReferenceProgramNeverFaults : Prop :=
  (∀ c e, c.accepted = true → c.rom = refRom c.trailingClock c.syncMode → RunsReference (State.resetWith c e)) ∧
  ∀ s : State, RunsReference s → s.mode ≠ .terminated → ∃ t, step s = .next t ∧ RunsReference t

/-- R188(f): without the cancellation input, without a write-failure limit and without a kill, a polling state of
the reference micro-program has a run of every length, and polls for ever. -/
def Obligations.ReferenceProgramPollsForever : Prop :=
  ∀ s : State, RunsReference s → s.mode = .polling → s.cfg.cancelPresent = false → s.cfg.failLimit = none →
    s.env.kill = none → ∀ n, ∃ t, Sys2Proof.core.run n s = .next t ∧ t.mode = .polling

/-- R183: one poll cycle of the reference micro-program, from address 1 back to address 1, when no write fails,
no cancellation occurs and no kill falls: it appends the events of the two decodes, the two emissions, the
cancel check and the delay, in that order, for every twelve levels of each pad. -/
def Obligations.PollCycleAppendsItsEventsInOrder : Prop :=
  ∀ s : State, RunsReference s → s.mode = .polling → s.upc = 1#12 → s.env.kill = none →
    maskClean s.mask0 → maskClean s.mask1 →
    (∀ k, k < 2 * emitPadLength s.cfg.syncMode → s.env.emit.answer Config.freeEmit k = .ok) →
    (s.cfg.cancelPresent = true → s.nextCancel = false) →
    ∃ t, Sys2Proof.core.run (s.cfg.rom.length - 1) s = .next t ∧
      t.trace = s.trace ++ cycleTrace s.cfg (s.levels .pad0) (s.levels .pad1) ∧
      t.mask0 = assembledMask (s.levels .pad0) ∧ t.mask1 = assembledMask (s.levels .pad1) ∧
      t.mode = .polling ∧ t.upc = 1#12 ∧ t.clkQ = .low ∧ t.stbQ = .low ∧ t.cfg = s.cfg

/-- R256: a Delay stands between consecutive cycles: before the JMP that closes a cycle, and so before the first
strobe of the next, the TRACE of the reference micro-program ends with Delay(P_CYCLE_DELAY). Before the first cycle
there is none: INIT has just run and TRACE ends with SinkInit(OK). Every step keeps this. -/
def Obligations.DelayStandsBetweenConsecutiveCycles : Prop :=
  let boundary (s : State) : Prop :=
    (s.mode = .polling → s.upc = 1#12 →
      s.trace.getLast? = some (.delay s.cfg.cycleDelay) ∨ s.trace.getLast? = some (.sinkInit .ok)) ∧
    (s.mode = .polling → s.upc.toNat = s.cfg.rom.length - 1 →
      s.trace.getLast? = some (.delay s.cfg.cycleDelay))
  (∀ c e, boundary (State.resetWith c e)) ∧
  ∀ s t : State, RunsReference s → boundary s → step s = .next t → boundary t

/-- R182, R163: a block whose ROM goes on after the reference micro-program, with any words, legal or illegal,
conforms: what stands behind the closing JMP is never observed. With no extra word it is the reference block
itself. The form of conformance is the model's reading of R182 (log entry 18). -/
def Obligations.WordsBehindTheReferenceProgramDoNotShow : Prop :=
  ∀ extra : List Word, extra.length ≤ 3968 →
    Conforms {
      Internal := State
      start := fun c e => State.resetWith { c with rom := c.rom ++ extra } e
      next := fun s => match step s with
        | .next t => some t
        | .fault _ => none
        | .refused _ => none
      observe := State.observe }

/-- R216, R187, under the informative pad model (log entry 13): a decode of pad p on the bench reads the buttons
of pad p, whatever the position of its shift register was, whatever the other pad holds, for both shift edges
and every tail level. -/
def Obligations.DecodeOnTheBenchReadsTheButtons : Prop :=
  ∀ (tc : Bool) (p : Pad) (b : Bench), b.core.mode = .polling → b.core.cfg.accepted = true →
    b.core.upc.toNat + decodeLength tc ≤ 4095 → maskClean (b.core.mask p) → (b.pad p).clk = .low →
    ∃ c, Bench.execAll (decodeOps tc p) b = .next c ∧
      (c.core.mask p).toNat = (b.pad p).buttons.toNat ∧ c.core.mask p.other = b.core.mask p.other
end

