-- ==== Sys2Proof/Laws/Decode.lean ====
section
/-! SUPPORT. The fields of a word and the words of the encoder as numbers: R101's bit positions said in
arithmetic, so that proofs about words are linear arithmetic. -/

namespace Sys2Proof

theorem toNat_fieldOp (w : Word) : (fieldOp w).toNat = w.toNat / 4096 := by
  simp [fieldOp, BitVec.extractLsb'_toNat, Nat.shiftRight_eq_div_pow]
  omega

theorem toNat_fieldT (w : Word) : (fieldT w).toNat = w.toNat % 4096 := by
  simp [fieldT, BitVec.extractLsb'_toNat]

theorem toNat_fieldHigh (w : Word) : (fieldHigh w).toNat = w.toNat / 512 % 8 := by
  simp [fieldHigh, BitVec.extractLsb'_toNat, Nat.shiftRight_eq_div_pow]

theorem toNat_fieldMidW (w : Word) : (fieldMidW w).toNat = w.toNat / 2 % 128 := by
  simp [fieldMidW, BitVec.extractLsb'_toNat, Nat.shiftRight_eq_div_pow]

theorem toNat_fieldMidPN (w : Word) : (fieldMidPN w).toNat = w.toNat / 16 % 16 := by
  simp [fieldMidPN, BitVec.extractLsb'_toNat, Nat.shiftRight_eq_div_pow]

theorem toNat_fieldN (w : Word) : (fieldN w).toNat = w.toNat % 16 := by
  simp [fieldN, BitVec.extractLsb'_toNat]

theorem fieldP_eq (w : Word) : fieldP w = decide (w.toNat / 256 % 2 = 1) := by
  rw [fieldP, BitVec.getLsbD, Nat.testBit_eq_decide_div_mod_eq]

theorem fieldV_eq (w : Word) : fieldV w = decide (w.toNat % 2 = 1) := by
  rw [fieldV, BitVec.getLsbD, Nat.testBit_eq_decide_div_mod_eq]
  simp

theorem fieldT_eq_zero (w : Word) : fieldT w = 0#12 ↔ w.toNat % 4096 = 0 := by
  rw [← BitVec.toNat_inj, toNat_fieldT]
  rfl

theorem fieldHigh_eq_zero (w : Word) : fieldHigh w = 0#3 ↔ w.toNat / 512 % 8 = 0 := by
  rw [← BitVec.toNat_inj, toNat_fieldHigh]
  rfl

theorem fieldMidW_eq_zero (w : Word) : fieldMidW w = 0#7 ↔ w.toNat / 2 % 128 = 0 := by
  rw [← BitVec.toNat_inj, toNat_fieldMidW]
  rfl

theorem fieldMidPN_eq_zero (w : Word) : fieldMidPN w = 0#4 ↔ w.toNat / 16 % 16 = 0 := by
  rw [← BitVec.toNat_inj, toNat_fieldMidPN]
  rfl

theorem toNat_encode_smp (p : Pad) (n : BitVec 4) :
    (encode (.smp p n)).toNat = 0x3000 + 256 * p.toBit.toNat + n.toNat := by
  revert n
  cases p <;> decide

theorem toNat_encode_emk (p : Pad) (n : BitVec 4) :
    (encode (.emk p n)).toNat = 0x4000 + 256 * p.toBit.toNat + n.toNat := by
  revert n
  cases p <;> decide

theorem toNat_encode_jmp (t : RomAddr) : (encode (.jmp t)).toNat = 0x8000 + t.toNat := by
  have ht := t.isLt
  have h : (0x8000#16 ||| t.setWidth 16).toNat = 2 ^ 15 * 1 ||| t.toNat := by
    rw [BitVec.toNat_or, BitVec.toNat_setWidth, Nat.mod_eq_of_lt (by omega)]
    rfl
  rw [encode, h, ← Nat.two_pow_add_eq_or_of_lt (by omega)]

/-- What decodes is well formed (R106). -/
theorem decode_wf {w : Word} {i : Instr} (h : decode w = .ok i) : i.wf = true := by
  unfold decode at h
  split at h
  all_goals try simp only [decodeZ, decodeW, decodePN] at h
  all_goals (try split at h) <;> (try split at h) <;> cases h <;> first | rfl | assumption

theorem smp_wf (p : Pad) (i : Fin 12) : (Instr.smp p (BitVec.ofNat 4 i.val)).wf = true := by
  cases p <;> (revert i; decide)

theorem emk_wf (p : Pad) (i : Fin 12) : (Instr.emk p (BitVec.ofNat 4 i.val)).wf = true := by
  cases p <;> (revert i; decide)

end Sys2Proof
end

