-- ==== Sys2Proof/Laws/State.lean ====
section
/-! SUPPORT. What each field of State reads after each update: one lemma per field per update, so that no later
proof unfolds a record update. -/

namespace Sys2Proof.Machine

/-! ## setClkQ -/

@[simp] theorem State.setClkQ_cfg (s : State) (l : Level) : (s.setClkQ l).cfg = s.cfg := rfl
@[simp] theorem State.setClkQ_mode (s : State) (l : Level) : (s.setClkQ l).mode = s.mode := rfl
@[simp] theorem State.setClkQ_upc (s : State) (l : Level) : (s.setClkQ l).upc = s.upc := rfl
@[simp] theorem State.setClkQ_clkQ (s : State) (l : Level) : (s.setClkQ l).clkQ = l := rfl
@[simp] theorem State.setClkQ_stbQ (s : State) (l : Level) : (s.setClkQ l).stbQ = s.stbQ := rfl
@[simp] theorem State.setClkQ_pinModeClk (s : State) (l : Level) : (s.setClkQ l).pinModeClk = s.pinModeClk := rfl
@[simp] theorem State.setClkQ_pinModeStb (s : State) (l : Level) : (s.setClkQ l).pinModeStb = s.pinModeStb := rfl
@[simp] theorem State.setClkQ_pinModeData0 (s : State) (l : Level) : (s.setClkQ l).pinModeData0 = s.pinModeData0 := rfl
@[simp] theorem State.setClkQ_pinModeData1 (s : State) (l : Level) : (s.setClkQ l).pinModeData1 = s.pinModeData1 := rfl
@[simp] theorem State.setClkQ_mask0 (s : State) (l : Level) : (s.setClkQ l).mask0 = s.mask0 := rfl
@[simp] theorem State.setClkQ_mask1 (s : State) (l : Level) : (s.setClkQ l).mask1 = s.mask1 := rfl
@[simp] theorem State.setClkQ_sinkOpen (s : State) (l : Level) : (s.setClkQ l).sinkOpen = s.sinkOpen := rfl
@[simp] theorem State.setClkQ_exit (s : State) (l : Level) : (s.setClkQ l).exit = s.exit := rfl
@[simp] theorem State.setClkQ_reason (s : State) (l : Level) : (s.setClkQ l).reason = s.reason := rfl
@[simp] theorem State.setClkQ_failCnt (s : State) (l : Level) : (s.setClkQ l).failCnt = s.failCnt := rfl
@[simp] theorem State.setClkQ_trace (s : State) (l : Level) : (s.setClkQ l).trace = s.trace := rfl
@[simp] theorem State.setClkQ_env (s : State) (l : Level) : (s.setClkQ l).env = s.env := rfl
@[simp] theorem State.setClkQ_mask (s : State) (l : Level) (p : Pad) : (s.setClkQ l).mask p = s.mask p := by cases p <;> rfl
@[simp] theorem State.setClkQ_pinMode (s : State) (l : Level) (role : PinRole) :
    (s.setClkQ l).pinMode role = s.pinMode role := by
  rcases role with _ | _ | p
  · rfl
  · rfl
  · cases p <;> rfl
@[simp] theorem State.setClkQ_pinsConfigured (s : State) (l : Level) : (s.setClkQ l).pinsConfigured = s.pinsConfigured := rfl

/-! ## setStbQ -/

@[simp] theorem State.setStbQ_cfg (s : State) (l : Level) : (s.setStbQ l).cfg = s.cfg := rfl
@[simp] theorem State.setStbQ_mode (s : State) (l : Level) : (s.setStbQ l).mode = s.mode := rfl
@[simp] theorem State.setStbQ_upc (s : State) (l : Level) : (s.setStbQ l).upc = s.upc := rfl
@[simp] theorem State.setStbQ_clkQ (s : State) (l : Level) : (s.setStbQ l).clkQ = s.clkQ := rfl
@[simp] theorem State.setStbQ_stbQ (s : State) (l : Level) : (s.setStbQ l).stbQ = l := rfl
@[simp] theorem State.setStbQ_pinModeClk (s : State) (l : Level) : (s.setStbQ l).pinModeClk = s.pinModeClk := rfl
@[simp] theorem State.setStbQ_pinModeStb (s : State) (l : Level) : (s.setStbQ l).pinModeStb = s.pinModeStb := rfl
@[simp] theorem State.setStbQ_pinModeData0 (s : State) (l : Level) : (s.setStbQ l).pinModeData0 = s.pinModeData0 := rfl
@[simp] theorem State.setStbQ_pinModeData1 (s : State) (l : Level) : (s.setStbQ l).pinModeData1 = s.pinModeData1 := rfl
@[simp] theorem State.setStbQ_mask0 (s : State) (l : Level) : (s.setStbQ l).mask0 = s.mask0 := rfl
@[simp] theorem State.setStbQ_mask1 (s : State) (l : Level) : (s.setStbQ l).mask1 = s.mask1 := rfl
@[simp] theorem State.setStbQ_sinkOpen (s : State) (l : Level) : (s.setStbQ l).sinkOpen = s.sinkOpen := rfl
@[simp] theorem State.setStbQ_exit (s : State) (l : Level) : (s.setStbQ l).exit = s.exit := rfl
@[simp] theorem State.setStbQ_reason (s : State) (l : Level) : (s.setStbQ l).reason = s.reason := rfl
@[simp] theorem State.setStbQ_failCnt (s : State) (l : Level) : (s.setStbQ l).failCnt = s.failCnt := rfl
@[simp] theorem State.setStbQ_trace (s : State) (l : Level) : (s.setStbQ l).trace = s.trace := rfl
@[simp] theorem State.setStbQ_env (s : State) (l : Level) : (s.setStbQ l).env = s.env := rfl
@[simp] theorem State.setStbQ_mask (s : State) (l : Level) (p : Pad) : (s.setStbQ l).mask p = s.mask p := by cases p <;> rfl
@[simp] theorem State.setStbQ_pinMode (s : State) (l : Level) (role : PinRole) :
    (s.setStbQ l).pinMode role = s.pinMode role := by
  rcases role with _ | _ | p
  · rfl
  · rfl
  · cases p <;> rfl
@[simp] theorem State.setStbQ_pinsConfigured (s : State) (l : Level) : (s.setStbQ l).pinsConfigured = s.pinsConfigured := rfl

/-! ## setMode -/

@[simp] theorem State.setMode_cfg (s : State) (m : Mode) : (s.setMode m).cfg = s.cfg := rfl
@[simp] theorem State.setMode_mode (s : State) (m : Mode) : (s.setMode m).mode = m := rfl
@[simp] theorem State.setMode_upc (s : State) (m : Mode) : (s.setMode m).upc = s.upc := rfl
@[simp] theorem State.setMode_clkQ (s : State) (m : Mode) : (s.setMode m).clkQ = s.clkQ := rfl
@[simp] theorem State.setMode_stbQ (s : State) (m : Mode) : (s.setMode m).stbQ = s.stbQ := rfl
@[simp] theorem State.setMode_pinModeClk (s : State) (m : Mode) : (s.setMode m).pinModeClk = s.pinModeClk := rfl
@[simp] theorem State.setMode_pinModeStb (s : State) (m : Mode) : (s.setMode m).pinModeStb = s.pinModeStb := rfl
@[simp] theorem State.setMode_pinModeData0 (s : State) (m : Mode) : (s.setMode m).pinModeData0 = s.pinModeData0 := rfl
@[simp] theorem State.setMode_pinModeData1 (s : State) (m : Mode) : (s.setMode m).pinModeData1 = s.pinModeData1 := rfl
@[simp] theorem State.setMode_mask0 (s : State) (m : Mode) : (s.setMode m).mask0 = s.mask0 := rfl
@[simp] theorem State.setMode_mask1 (s : State) (m : Mode) : (s.setMode m).mask1 = s.mask1 := rfl
@[simp] theorem State.setMode_sinkOpen (s : State) (m : Mode) : (s.setMode m).sinkOpen = s.sinkOpen := rfl
@[simp] theorem State.setMode_exit (s : State) (m : Mode) : (s.setMode m).exit = s.exit := rfl
@[simp] theorem State.setMode_reason (s : State) (m : Mode) : (s.setMode m).reason = s.reason := rfl
@[simp] theorem State.setMode_failCnt (s : State) (m : Mode) : (s.setMode m).failCnt = s.failCnt := rfl
@[simp] theorem State.setMode_trace (s : State) (m : Mode) : (s.setMode m).trace = s.trace := rfl
@[simp] theorem State.setMode_env (s : State) (m : Mode) : (s.setMode m).env = s.env := rfl
@[simp] theorem State.setMode_mask (s : State) (m : Mode) (p : Pad) : (s.setMode m).mask p = s.mask p := by cases p <;> rfl
@[simp] theorem State.setMode_pinMode (s : State) (m : Mode) (role : PinRole) :
    (s.setMode m).pinMode role = s.pinMode role := by
  rcases role with _ | _ | p
  · rfl
  · rfl
  · cases p <;> rfl
@[simp] theorem State.setMode_pinsConfigured (s : State) (m : Mode) : (s.setMode m).pinsConfigured = s.pinsConfigured := rfl

/-! ## setUpc -/

@[simp] theorem State.setUpc_cfg (s : State) (a : RomAddr) : (s.setUpc a).cfg = s.cfg := rfl
@[simp] theorem State.setUpc_mode (s : State) (a : RomAddr) : (s.setUpc a).mode = s.mode := rfl
@[simp] theorem State.setUpc_upc (s : State) (a : RomAddr) : (s.setUpc a).upc = a := rfl
@[simp] theorem State.setUpc_clkQ (s : State) (a : RomAddr) : (s.setUpc a).clkQ = s.clkQ := rfl
@[simp] theorem State.setUpc_stbQ (s : State) (a : RomAddr) : (s.setUpc a).stbQ = s.stbQ := rfl
@[simp] theorem State.setUpc_pinModeClk (s : State) (a : RomAddr) : (s.setUpc a).pinModeClk = s.pinModeClk := rfl
@[simp] theorem State.setUpc_pinModeStb (s : State) (a : RomAddr) : (s.setUpc a).pinModeStb = s.pinModeStb := rfl
@[simp] theorem State.setUpc_pinModeData0 (s : State) (a : RomAddr) : (s.setUpc a).pinModeData0 = s.pinModeData0 := rfl
@[simp] theorem State.setUpc_pinModeData1 (s : State) (a : RomAddr) : (s.setUpc a).pinModeData1 = s.pinModeData1 := rfl
@[simp] theorem State.setUpc_mask0 (s : State) (a : RomAddr) : (s.setUpc a).mask0 = s.mask0 := rfl
@[simp] theorem State.setUpc_mask1 (s : State) (a : RomAddr) : (s.setUpc a).mask1 = s.mask1 := rfl
@[simp] theorem State.setUpc_sinkOpen (s : State) (a : RomAddr) : (s.setUpc a).sinkOpen = s.sinkOpen := rfl
@[simp] theorem State.setUpc_exit (s : State) (a : RomAddr) : (s.setUpc a).exit = s.exit := rfl
@[simp] theorem State.setUpc_reason (s : State) (a : RomAddr) : (s.setUpc a).reason = s.reason := rfl
@[simp] theorem State.setUpc_failCnt (s : State) (a : RomAddr) : (s.setUpc a).failCnt = s.failCnt := rfl
@[simp] theorem State.setUpc_trace (s : State) (a : RomAddr) : (s.setUpc a).trace = s.trace := rfl
@[simp] theorem State.setUpc_env (s : State) (a : RomAddr) : (s.setUpc a).env = s.env := rfl
@[simp] theorem State.setUpc_mask (s : State) (a : RomAddr) (p : Pad) : (s.setUpc a).mask p = s.mask p := by cases p <;> rfl
@[simp] theorem State.setUpc_pinMode (s : State) (a : RomAddr) (role : PinRole) :
    (s.setUpc a).pinMode role = s.pinMode role := by
  rcases role with _ | _ | p
  · rfl
  · rfl
  · cases p <;> rfl
@[simp] theorem State.setUpc_pinsConfigured (s : State) (a : RomAddr) : (s.setUpc a).pinsConfigured = s.pinsConfigured := rfl

/-! ## setSinkOpen -/

@[simp] theorem State.setSinkOpen_cfg (s : State) (b : Bool) : (s.setSinkOpen b).cfg = s.cfg := rfl
@[simp] theorem State.setSinkOpen_mode (s : State) (b : Bool) : (s.setSinkOpen b).mode = s.mode := rfl
@[simp] theorem State.setSinkOpen_upc (s : State) (b : Bool) : (s.setSinkOpen b).upc = s.upc := rfl
@[simp] theorem State.setSinkOpen_clkQ (s : State) (b : Bool) : (s.setSinkOpen b).clkQ = s.clkQ := rfl
@[simp] theorem State.setSinkOpen_stbQ (s : State) (b : Bool) : (s.setSinkOpen b).stbQ = s.stbQ := rfl
@[simp] theorem State.setSinkOpen_pinModeClk (s : State) (b : Bool) : (s.setSinkOpen b).pinModeClk = s.pinModeClk := rfl
@[simp] theorem State.setSinkOpen_pinModeStb (s : State) (b : Bool) : (s.setSinkOpen b).pinModeStb = s.pinModeStb := rfl
@[simp] theorem State.setSinkOpen_pinModeData0 (s : State) (b : Bool) : (s.setSinkOpen b).pinModeData0 = s.pinModeData0 := rfl
@[simp] theorem State.setSinkOpen_pinModeData1 (s : State) (b : Bool) : (s.setSinkOpen b).pinModeData1 = s.pinModeData1 := rfl
@[simp] theorem State.setSinkOpen_mask0 (s : State) (b : Bool) : (s.setSinkOpen b).mask0 = s.mask0 := rfl
@[simp] theorem State.setSinkOpen_mask1 (s : State) (b : Bool) : (s.setSinkOpen b).mask1 = s.mask1 := rfl
@[simp] theorem State.setSinkOpen_sinkOpen (s : State) (b : Bool) : (s.setSinkOpen b).sinkOpen = b := rfl
@[simp] theorem State.setSinkOpen_exit (s : State) (b : Bool) : (s.setSinkOpen b).exit = s.exit := rfl
@[simp] theorem State.setSinkOpen_reason (s : State) (b : Bool) : (s.setSinkOpen b).reason = s.reason := rfl
@[simp] theorem State.setSinkOpen_failCnt (s : State) (b : Bool) : (s.setSinkOpen b).failCnt = s.failCnt := rfl
@[simp] theorem State.setSinkOpen_trace (s : State) (b : Bool) : (s.setSinkOpen b).trace = s.trace := rfl
@[simp] theorem State.setSinkOpen_env (s : State) (b : Bool) : (s.setSinkOpen b).env = s.env := rfl
@[simp] theorem State.setSinkOpen_mask (s : State) (b : Bool) (p : Pad) : (s.setSinkOpen b).mask p = s.mask p := by cases p <;> rfl
@[simp] theorem State.setSinkOpen_pinMode (s : State) (b : Bool) (role : PinRole) :
    (s.setSinkOpen b).pinMode role = s.pinMode role := by
  rcases role with _ | _ | p
  · rfl
  · rfl
  · cases p <;> rfl
@[simp] theorem State.setSinkOpen_pinsConfigured (s : State) (b : Bool) : (s.setSinkOpen b).pinsConfigured = s.pinsConfigured := rfl

/-! ## setExit -/

@[simp] theorem State.setExit_cfg (s : State) (c : ExitCode) : (s.setExit c).cfg = s.cfg := rfl
@[simp] theorem State.setExit_mode (s : State) (c : ExitCode) : (s.setExit c).mode = s.mode := rfl
@[simp] theorem State.setExit_upc (s : State) (c : ExitCode) : (s.setExit c).upc = s.upc := rfl
@[simp] theorem State.setExit_clkQ (s : State) (c : ExitCode) : (s.setExit c).clkQ = s.clkQ := rfl
@[simp] theorem State.setExit_stbQ (s : State) (c : ExitCode) : (s.setExit c).stbQ = s.stbQ := rfl
@[simp] theorem State.setExit_pinModeClk (s : State) (c : ExitCode) : (s.setExit c).pinModeClk = s.pinModeClk := rfl
@[simp] theorem State.setExit_pinModeStb (s : State) (c : ExitCode) : (s.setExit c).pinModeStb = s.pinModeStb := rfl
@[simp] theorem State.setExit_pinModeData0 (s : State) (c : ExitCode) : (s.setExit c).pinModeData0 = s.pinModeData0 := rfl
@[simp] theorem State.setExit_pinModeData1 (s : State) (c : ExitCode) : (s.setExit c).pinModeData1 = s.pinModeData1 := rfl
@[simp] theorem State.setExit_mask0 (s : State) (c : ExitCode) : (s.setExit c).mask0 = s.mask0 := rfl
@[simp] theorem State.setExit_mask1 (s : State) (c : ExitCode) : (s.setExit c).mask1 = s.mask1 := rfl
@[simp] theorem State.setExit_sinkOpen (s : State) (c : ExitCode) : (s.setExit c).sinkOpen = s.sinkOpen := rfl
@[simp] theorem State.setExit_exit (s : State) (c : ExitCode) : (s.setExit c).exit = some c := rfl
@[simp] theorem State.setExit_reason (s : State) (c : ExitCode) : (s.setExit c).reason = s.reason := rfl
@[simp] theorem State.setExit_failCnt (s : State) (c : ExitCode) : (s.setExit c).failCnt = s.failCnt := rfl
@[simp] theorem State.setExit_trace (s : State) (c : ExitCode) : (s.setExit c).trace = s.trace := rfl
@[simp] theorem State.setExit_env (s : State) (c : ExitCode) : (s.setExit c).env = s.env := rfl
@[simp] theorem State.setExit_mask (s : State) (c : ExitCode) (p : Pad) : (s.setExit c).mask p = s.mask p := by cases p <;> rfl
@[simp] theorem State.setExit_pinMode (s : State) (c : ExitCode) (role : PinRole) :
    (s.setExit c).pinMode role = s.pinMode role := by
  rcases role with _ | _ | p
  · rfl
  · rfl
  · cases p <;> rfl
@[simp] theorem State.setExit_pinsConfigured (s : State) (c : ExitCode) : (s.setExit c).pinsConfigured = s.pinsConfigured := rfl

/-! ## setReason -/

@[simp] theorem State.setReason_cfg (s : State) (r : Reason) : (s.setReason r).cfg = s.cfg := rfl
@[simp] theorem State.setReason_mode (s : State) (r : Reason) : (s.setReason r).mode = s.mode := rfl
@[simp] theorem State.setReason_upc (s : State) (r : Reason) : (s.setReason r).upc = s.upc := rfl
@[simp] theorem State.setReason_clkQ (s : State) (r : Reason) : (s.setReason r).clkQ = s.clkQ := rfl
@[simp] theorem State.setReason_stbQ (s : State) (r : Reason) : (s.setReason r).stbQ = s.stbQ := rfl
@[simp] theorem State.setReason_pinModeClk (s : State) (r : Reason) : (s.setReason r).pinModeClk = s.pinModeClk := rfl
@[simp] theorem State.setReason_pinModeStb (s : State) (r : Reason) : (s.setReason r).pinModeStb = s.pinModeStb := rfl
@[simp] theorem State.setReason_pinModeData0 (s : State) (r : Reason) : (s.setReason r).pinModeData0 = s.pinModeData0 := rfl
@[simp] theorem State.setReason_pinModeData1 (s : State) (r : Reason) : (s.setReason r).pinModeData1 = s.pinModeData1 := rfl
@[simp] theorem State.setReason_mask0 (s : State) (r : Reason) : (s.setReason r).mask0 = s.mask0 := rfl
@[simp] theorem State.setReason_mask1 (s : State) (r : Reason) : (s.setReason r).mask1 = s.mask1 := rfl
@[simp] theorem State.setReason_sinkOpen (s : State) (r : Reason) : (s.setReason r).sinkOpen = s.sinkOpen := rfl
@[simp] theorem State.setReason_exit (s : State) (r : Reason) : (s.setReason r).exit = s.exit := rfl
@[simp] theorem State.setReason_reason (s : State) (r : Reason) : (s.setReason r).reason = r := rfl
@[simp] theorem State.setReason_failCnt (s : State) (r : Reason) : (s.setReason r).failCnt = s.failCnt := rfl
@[simp] theorem State.setReason_trace (s : State) (r : Reason) : (s.setReason r).trace = s.trace := rfl
@[simp] theorem State.setReason_env (s : State) (r : Reason) : (s.setReason r).env = s.env := rfl
@[simp] theorem State.setReason_mask (s : State) (r : Reason) (p : Pad) : (s.setReason r).mask p = s.mask p := by cases p <;> rfl
@[simp] theorem State.setReason_pinMode (s : State) (r : Reason) (role : PinRole) :
    (s.setReason r).pinMode role = s.pinMode role := by
  rcases role with _ | _ | p
  · rfl
  · rfl
  · cases p <;> rfl
@[simp] theorem State.setReason_pinsConfigured (s : State) (r : Reason) : (s.setReason r).pinsConfigured = s.pinsConfigured := rfl

/-! ## setFailCnt -/

@[simp] theorem State.setFailCnt_cfg (s : State) (n : Nat) : (s.setFailCnt n).cfg = s.cfg := rfl
@[simp] theorem State.setFailCnt_mode (s : State) (n : Nat) : (s.setFailCnt n).mode = s.mode := rfl
@[simp] theorem State.setFailCnt_upc (s : State) (n : Nat) : (s.setFailCnt n).upc = s.upc := rfl
@[simp] theorem State.setFailCnt_clkQ (s : State) (n : Nat) : (s.setFailCnt n).clkQ = s.clkQ := rfl
@[simp] theorem State.setFailCnt_stbQ (s : State) (n : Nat) : (s.setFailCnt n).stbQ = s.stbQ := rfl
@[simp] theorem State.setFailCnt_pinModeClk (s : State) (n : Nat) : (s.setFailCnt n).pinModeClk = s.pinModeClk := rfl
@[simp] theorem State.setFailCnt_pinModeStb (s : State) (n : Nat) : (s.setFailCnt n).pinModeStb = s.pinModeStb := rfl
@[simp] theorem State.setFailCnt_pinModeData0 (s : State) (n : Nat) : (s.setFailCnt n).pinModeData0 = s.pinModeData0 := rfl
@[simp] theorem State.setFailCnt_pinModeData1 (s : State) (n : Nat) : (s.setFailCnt n).pinModeData1 = s.pinModeData1 := rfl
@[simp] theorem State.setFailCnt_mask0 (s : State) (n : Nat) : (s.setFailCnt n).mask0 = s.mask0 := rfl
@[simp] theorem State.setFailCnt_mask1 (s : State) (n : Nat) : (s.setFailCnt n).mask1 = s.mask1 := rfl
@[simp] theorem State.setFailCnt_sinkOpen (s : State) (n : Nat) : (s.setFailCnt n).sinkOpen = s.sinkOpen := rfl
@[simp] theorem State.setFailCnt_exit (s : State) (n : Nat) : (s.setFailCnt n).exit = s.exit := rfl
@[simp] theorem State.setFailCnt_reason (s : State) (n : Nat) : (s.setFailCnt n).reason = s.reason := rfl
@[simp] theorem State.setFailCnt_failCnt (s : State) (n : Nat) : (s.setFailCnt n).failCnt = n := rfl
@[simp] theorem State.setFailCnt_trace (s : State) (n : Nat) : (s.setFailCnt n).trace = s.trace := rfl
@[simp] theorem State.setFailCnt_env (s : State) (n : Nat) : (s.setFailCnt n).env = s.env := rfl
@[simp] theorem State.setFailCnt_mask (s : State) (n : Nat) (p : Pad) : (s.setFailCnt n).mask p = s.mask p := by cases p <;> rfl
@[simp] theorem State.setFailCnt_pinMode (s : State) (n : Nat) (role : PinRole) :
    (s.setFailCnt n).pinMode role = s.pinMode role := by
  rcases role with _ | _ | p
  · rfl
  · rfl
  · cases p <;> rfl
@[simp] theorem State.setFailCnt_pinsConfigured (s : State) (n : Nat) : (s.setFailCnt n).pinsConfigured = s.pinsConfigured := rfl

/-! ## record -/

@[simp] theorem State.record_cfg (s : State) (e : Event) : (s.record e).cfg = s.cfg := rfl
@[simp] theorem State.record_mode (s : State) (e : Event) : (s.record e).mode = s.mode := rfl
@[simp] theorem State.record_upc (s : State) (e : Event) : (s.record e).upc = s.upc := rfl
@[simp] theorem State.record_clkQ (s : State) (e : Event) : (s.record e).clkQ = s.clkQ := rfl
@[simp] theorem State.record_stbQ (s : State) (e : Event) : (s.record e).stbQ = s.stbQ := rfl
@[simp] theorem State.record_pinModeClk (s : State) (e : Event) : (s.record e).pinModeClk = s.pinModeClk := rfl
@[simp] theorem State.record_pinModeStb (s : State) (e : Event) : (s.record e).pinModeStb = s.pinModeStb := rfl
@[simp] theorem State.record_pinModeData0 (s : State) (e : Event) : (s.record e).pinModeData0 = s.pinModeData0 := rfl
@[simp] theorem State.record_pinModeData1 (s : State) (e : Event) : (s.record e).pinModeData1 = s.pinModeData1 := rfl
@[simp] theorem State.record_mask0 (s : State) (e : Event) : (s.record e).mask0 = s.mask0 := rfl
@[simp] theorem State.record_mask1 (s : State) (e : Event) : (s.record e).mask1 = s.mask1 := rfl
@[simp] theorem State.record_sinkOpen (s : State) (e : Event) : (s.record e).sinkOpen = s.sinkOpen := rfl
@[simp] theorem State.record_exit (s : State) (e : Event) : (s.record e).exit = s.exit := rfl
@[simp] theorem State.record_reason (s : State) (e : Event) : (s.record e).reason = s.reason := rfl
@[simp] theorem State.record_failCnt (s : State) (e : Event) : (s.record e).failCnt = s.failCnt := rfl
@[simp] theorem State.record_trace (s : State) (e : Event) : (s.record e).trace = s.trace ++ [e] := rfl
@[simp] theorem State.record_env (s : State) (e : Event) : (s.record e).env = s.env := rfl
@[simp] theorem State.record_mask (s : State) (e : Event) (p : Pad) : (s.record e).mask p = s.mask p := by cases p <;> rfl
@[simp] theorem State.record_pinMode (s : State) (e : Event) (role : PinRole) :
    (s.record e).pinMode role = s.pinMode role := by
  rcases role with _ | _ | p
  · rfl
  · rfl
  · cases p <;> rfl
@[simp] theorem State.record_pinsConfigured (s : State) (e : Event) : (s.record e).pinsConfigured = s.pinsConfigured := rfl

/-! ## setEnv -/

@[simp] theorem State.setEnv_cfg (s : State) (e : Env) : (s.setEnv e).cfg = s.cfg := rfl
@[simp] theorem State.setEnv_mode (s : State) (e : Env) : (s.setEnv e).mode = s.mode := rfl
@[simp] theorem State.setEnv_upc (s : State) (e : Env) : (s.setEnv e).upc = s.upc := rfl
@[simp] theorem State.setEnv_clkQ (s : State) (e : Env) : (s.setEnv e).clkQ = s.clkQ := rfl
@[simp] theorem State.setEnv_stbQ (s : State) (e : Env) : (s.setEnv e).stbQ = s.stbQ := rfl
@[simp] theorem State.setEnv_pinModeClk (s : State) (e : Env) : (s.setEnv e).pinModeClk = s.pinModeClk := rfl
@[simp] theorem State.setEnv_pinModeStb (s : State) (e : Env) : (s.setEnv e).pinModeStb = s.pinModeStb := rfl
@[simp] theorem State.setEnv_pinModeData0 (s : State) (e : Env) : (s.setEnv e).pinModeData0 = s.pinModeData0 := rfl
@[simp] theorem State.setEnv_pinModeData1 (s : State) (e : Env) : (s.setEnv e).pinModeData1 = s.pinModeData1 := rfl
@[simp] theorem State.setEnv_mask0 (s : State) (e : Env) : (s.setEnv e).mask0 = s.mask0 := rfl
@[simp] theorem State.setEnv_mask1 (s : State) (e : Env) : (s.setEnv e).mask1 = s.mask1 := rfl
@[simp] theorem State.setEnv_sinkOpen (s : State) (e : Env) : (s.setEnv e).sinkOpen = s.sinkOpen := rfl
@[simp] theorem State.setEnv_exit (s : State) (e : Env) : (s.setEnv e).exit = s.exit := rfl
@[simp] theorem State.setEnv_reason (s : State) (e : Env) : (s.setEnv e).reason = s.reason := rfl
@[simp] theorem State.setEnv_failCnt (s : State) (e : Env) : (s.setEnv e).failCnt = s.failCnt := rfl
@[simp] theorem State.setEnv_trace (s : State) (e : Env) : (s.setEnv e).trace = s.trace := rfl
@[simp] theorem State.setEnv_env (s : State) (e : Env) : (s.setEnv e).env = e := rfl
@[simp] theorem State.setEnv_mask (s : State) (e : Env) (p : Pad) : (s.setEnv e).mask p = s.mask p := by cases p <;> rfl
@[simp] theorem State.setEnv_pinMode (s : State) (e : Env) (role : PinRole) :
    (s.setEnv e).pinMode role = s.pinMode role := by
  rcases role with _ | _ | p
  · rfl
  · rfl
  · cases p <;> rfl
@[simp] theorem State.setEnv_pinsConfigured (s : State) (e : Env) : (s.setEnv e).pinsConfigured = s.pinsConfigured := rfl

/-! ## setMask -/

@[simp] theorem State.setMask_cfg (s : State) (p : Pad) (v : Mask) : (s.setMask p v).cfg = s.cfg := by cases p <;> rfl
@[simp] theorem State.setMask_mode (s : State) (p : Pad) (v : Mask) : (s.setMask p v).mode = s.mode := by cases p <;> rfl
@[simp] theorem State.setMask_upc (s : State) (p : Pad) (v : Mask) : (s.setMask p v).upc = s.upc := by cases p <;> rfl
@[simp] theorem State.setMask_clkQ (s : State) (p : Pad) (v : Mask) : (s.setMask p v).clkQ = s.clkQ := by cases p <;> rfl
@[simp] theorem State.setMask_stbQ (s : State) (p : Pad) (v : Mask) : (s.setMask p v).stbQ = s.stbQ := by cases p <;> rfl
@[simp] theorem State.setMask_pinModeClk (s : State) (p : Pad) (v : Mask) : (s.setMask p v).pinModeClk = s.pinModeClk := by cases p <;> rfl
@[simp] theorem State.setMask_pinModeStb (s : State) (p : Pad) (v : Mask) : (s.setMask p v).pinModeStb = s.pinModeStb := by cases p <;> rfl
@[simp] theorem State.setMask_pinModeData0 (s : State) (p : Pad) (v : Mask) : (s.setMask p v).pinModeData0 = s.pinModeData0 := by cases p <;> rfl
@[simp] theorem State.setMask_pinModeData1 (s : State) (p : Pad) (v : Mask) : (s.setMask p v).pinModeData1 = s.pinModeData1 := by cases p <;> rfl
@[simp] theorem State.setMask_sinkOpen (s : State) (p : Pad) (v : Mask) : (s.setMask p v).sinkOpen = s.sinkOpen := by cases p <;> rfl
@[simp] theorem State.setMask_exit (s : State) (p : Pad) (v : Mask) : (s.setMask p v).exit = s.exit := by cases p <;> rfl
@[simp] theorem State.setMask_reason (s : State) (p : Pad) (v : Mask) : (s.setMask p v).reason = s.reason := by cases p <;> rfl
@[simp] theorem State.setMask_failCnt (s : State) (p : Pad) (v : Mask) : (s.setMask p v).failCnt = s.failCnt := by cases p <;> rfl
@[simp] theorem State.setMask_trace (s : State) (p : Pad) (v : Mask) : (s.setMask p v).trace = s.trace := by cases p <;> rfl
@[simp] theorem State.setMask_env (s : State) (p : Pad) (v : Mask) : (s.setMask p v).env = s.env := by cases p <;> rfl
@[simp] theorem State.setMask_pad0_mask0 (s : State) (v : Mask) : (s.setMask .pad0 v).mask0 = v := rfl
@[simp] theorem State.setMask_pad1_mask0 (s : State) (v : Mask) : (s.setMask .pad1 v).mask0 = s.mask0 := rfl
@[simp] theorem State.setMask_pad1_mask1 (s : State) (v : Mask) : (s.setMask .pad1 v).mask1 = v := rfl
@[simp] theorem State.setMask_pad0_mask1 (s : State) (v : Mask) : (s.setMask .pad0 v).mask1 = s.mask1 := rfl
@[simp] theorem State.setMask_mask (s : State) (p : Pad) (v : Mask) : (s.setMask p v).mask p = v := by cases p <;> rfl
@[simp] theorem State.setMask_mask_other (s : State) (p : Pad) (v : Mask) :
    (s.setMask p v).mask p.other = s.mask p.other := by cases p <;> rfl
theorem State.setMask_mask_ne (s : State) {p q : Pad} (v : Mask) (h : q ≠ p) : (s.setMask p v).mask q = s.mask q := by
  cases p <;> cases q <;> first | rfl | exact absurd rfl h
@[simp] theorem State.setMask_pinsConfigured (s : State) (p : Pad) (v : Mask) :
    (s.setMask p v).pinsConfigured = s.pinsConfigured := by cases p <;> rfl

/-! ## setPinMode -/

@[simp] theorem State.setPinMode_cfg (s : State) (r : PinRole) (m : PinMode) : (s.setPinMode r m).cfg = s.cfg := by
  rcases r with _ | _ | p
  · rfl
  · rfl
  · cases p <;> rfl
@[simp] theorem State.setPinMode_mode (s : State) (r : PinRole) (m : PinMode) : (s.setPinMode r m).mode = s.mode := by
  rcases r with _ | _ | p
  · rfl
  · rfl
  · cases p <;> rfl
@[simp] theorem State.setPinMode_upc (s : State) (r : PinRole) (m : PinMode) : (s.setPinMode r m).upc = s.upc := by
  rcases r with _ | _ | p
  · rfl
  · rfl
  · cases p <;> rfl
@[simp] theorem State.setPinMode_clkQ (s : State) (r : PinRole) (m : PinMode) : (s.setPinMode r m).clkQ = s.clkQ := by
  rcases r with _ | _ | p
  · rfl
  · rfl
  · cases p <;> rfl
@[simp] theorem State.setPinMode_stbQ (s : State) (r : PinRole) (m : PinMode) : (s.setPinMode r m).stbQ = s.stbQ := by
  rcases r with _ | _ | p
  · rfl
  · rfl
  · cases p <;> rfl
@[simp] theorem State.setPinMode_mask0 (s : State) (r : PinRole) (m : PinMode) : (s.setPinMode r m).mask0 = s.mask0 := by
  rcases r with _ | _ | p
  · rfl
  · rfl
  · cases p <;> rfl
@[simp] theorem State.setPinMode_mask1 (s : State) (r : PinRole) (m : PinMode) : (s.setPinMode r m).mask1 = s.mask1 := by
  rcases r with _ | _ | p
  · rfl
  · rfl
  · cases p <;> rfl
@[simp] theorem State.setPinMode_sinkOpen (s : State) (r : PinRole) (m : PinMode) : (s.setPinMode r m).sinkOpen = s.sinkOpen := by
  rcases r with _ | _ | p
  · rfl
  · rfl
  · cases p <;> rfl
@[simp] theorem State.setPinMode_exit (s : State) (r : PinRole) (m : PinMode) : (s.setPinMode r m).exit = s.exit := by
  rcases r with _ | _ | p
  · rfl
  · rfl
  · cases p <;> rfl
@[simp] theorem State.setPinMode_reason (s : State) (r : PinRole) (m : PinMode) : (s.setPinMode r m).reason = s.reason := by
  rcases r with _ | _ | p
  · rfl
  · rfl
  · cases p <;> rfl
@[simp] theorem State.setPinMode_failCnt (s : State) (r : PinRole) (m : PinMode) : (s.setPinMode r m).failCnt = s.failCnt := by
  rcases r with _ | _ | p
  · rfl
  · rfl
  · cases p <;> rfl
@[simp] theorem State.setPinMode_trace (s : State) (r : PinRole) (m : PinMode) : (s.setPinMode r m).trace = s.trace := by
  rcases r with _ | _ | p
  · rfl
  · rfl
  · cases p <;> rfl
@[simp] theorem State.setPinMode_env (s : State) (r : PinRole) (m : PinMode) : (s.setPinMode r m).env = s.env := by
  rcases r with _ | _ | p
  · rfl
  · rfl
  · cases p <;> rfl
@[simp] theorem State.setPinMode_mask (s : State) (r : PinRole) (m : PinMode) (p : Pad) :
    (s.setPinMode r m).mask p = s.mask p := by cases p <;> simp [State.mask]
@[simp] theorem State.setPinMode_pinMode (s : State) (r : PinRole) (m : PinMode) : (s.setPinMode r m).pinMode r = m := by
  rcases r with _ | _ | p
  · rfl
  · rfl
  · cases p <;> rfl
theorem State.setPinMode_pinMode_ne (s : State) {r q : PinRole} (m : PinMode) (h : q ≠ r) :
    (s.setPinMode r m).pinMode q = s.pinMode q := by
  rcases r with _ | _ | p <;> rcases q with _ | _ | p' <;> (try cases p) <;> (try cases p') <;>
    first | rfl | exact absurd rfl h

/-! ## The environment's data ports -/

@[simp] theorem Env.setData_data (e : Env) (p : Pad) (q : Port Level) : (e.setData p q).data p = q := by cases p <;> rfl
@[simp] theorem Env.setData_data_other (e : Env) (p : Pad) (q : Port Level) :
    (e.setData p q).data p.other = e.data p.other := by cases p <;> rfl
@[simp] theorem Env.setData_gpio (e : Env) (p : Pad) (q : Port Level) : (e.setData p q).gpio = e.gpio := by cases p <;> rfl
@[simp] theorem Env.setData_sink (e : Env) (p : Pad) (q : Port Level) : (e.setData p q).sink = e.sink := by cases p <;> rfl
@[simp] theorem Env.setData_emit (e : Env) (p : Pad) (q : Port Level) : (e.setData p q).emit = e.emit := by cases p <;> rfl
@[simp] theorem Env.setData_cancel (e : Env) (p : Pad) (q : Port Level) : (e.setData p q).cancel = e.cancel := by
  cases p <;> rfl
@[simp] theorem Env.setData_kill (e : Env) (p : Pad) (q : Port Level) : (e.setData p q).kill = e.kill := by cases p <;> rfl
@[simp] theorem pad_other_other (p : Pad) : p.other.other = p := by cases p <;> rfl
theorem pad_other_ne (p : Pad) : p.other ≠ p := by cases p <;> decide

end Sys2Proof.Machine
end

