-- ==== Sys2Proof/Laws/Ops.lean ====
section
/-! SUPPORT. What each shared operation does, said once: bit writes, ports, the primitives, fatal entry, write
results, and the common parts of a micro-op. Later proofs cite these instead of unfolding the operations. -/

namespace Sys2Proof.Machine

/-! ## Bit writes -/

theorem getLsbD_writeBit (m : Mask) {i k : Nat} (b : Bool) (hi : i < 16) (hk : k < 16) :
    (writeBit m i b).getLsbD k = if k = i then b else m.getLsbD k := by
  by_cases h : k = i
  · subst h
    cases b <;> simp [writeBit, hk]
  · have h1 : k < i ∨ k - i ≠ 0 := by omega
    cases b <;> rcases h1 with h1 | h1 <;> simp [writeBit, h, hk, h1]

theorem maskClean_iff (m : Mask) : (m.extractLsb' 12 4 = 0#4) ↔ ∀ k, 12 ≤ k → k < 16 → m.getLsbD k = false := by
  constructor
  · intro h k h1 h2
    have := congrArg (fun v => v.getLsbD (k - 12)) h
    simpa [BitVec.getLsbD_extractLsb', show k - 12 < 4 by omega, show 12 + (k - 12) = k by omega] using this
  · intro h
    apply BitVec.eq_of_getLsbD_eq
    intro k hk
    simpa [BitVec.getLsbD_extractLsb', hk] using h (12 + k) (by omega) (by omega)

theorem maskClean_writeBit (m : Mask) {i : Nat} (b : Bool) (hi : i < 12) (h : m.extractLsb' 12 4 = 0#4) :
    (writeBit m i b).extractLsb' 12 4 = 0#4 := by
  rw [maskClean_iff] at h ⊢
  intro k h1 h2
  rw [getLsbD_writeBit m b (by omega) h2, if_neg (by omega), h k h1 h2]

/-! ## Ports -/

theorem Port.head_eq_answer {α : Type} (free : Nat → α) (q : Port α) : q.head free = q.answer free 0 := by
  rcases q with ⟨_ | ⟨a, l⟩, n⟩ <;> rfl

theorem Port.answer_tail {α : Type} (free : Nat → α) (q : Port α) (k : Nat) :
    q.tail.answer free k = q.answer free (k + 1) := by
  have h : q.taken + 1 + k = q.taken + (k + 1) := by omega
  rcases q with ⟨_ | ⟨a, l⟩, n⟩ <;> simp_all [Port.tail, Port.answer]

/-! ## Primitives -/

@[simp] theorem pinRead_fst (p : Pad) (s : State) : (pinRead p s).1 = s.nextLevel p := rfl

@[simp] theorem gpioSetup_fst (s : State) : (gpioSetup s).1 = s.nextGpio := rfl
@[simp] theorem sinkOpen_fst (s : State) : (sinkOpen s).1 = s.nextSink := rfl
@[simp] theorem emit_fst (ev : SinkEvent) (s : State) : (emit ev s).1 = s.nextEmit := rfl
@[simp] theorem cancelInput_fst (s : State) : (cancelInput s).1 = s.nextCancel := rfl

theorem pinRead_snd (p : Pad) (s : State) :
    (pinRead p s).2 = { s with
      env := s.env.setData p (s.env.data p).tail, trace := s.trace ++ [.rd (s.cfg.pin (.data p)) (s.nextLevel p)] } :=
  rfl

theorem emit_snd (ev : SinkEvent) (s : State) :
    (emit ev s).2 = { s with
      env := { s.env with emit := s.env.emit.tail }, trace := s.trace ++ [ev.traced s.nextEmit] } := rfl

theorem driveClk_eq (lvl : Level) (s : State) :
    driveClk lvl s = { s with clkQ := lvl, trace := s.trace ++ [.wr s.cfg.pinClk lvl] } := rfl

theorem driveStb_eq (lvl : Level) (s : State) :
    driveStb lvl s = { s with stbQ := lvl, trace := s.trace ++ [.wr s.cfg.pinStb lvl] } := rfl

theorem hostDelay_eq (d : Micros) (s : State) : hostDelay d s = { s with trace := s.trace ++ [.delay d] } := rfl

/-- R124 in one record: the mask bit, the port and the trace. -/
theorem sampleBit_eq (p : Pad) (i : Fin 12) (s : State) :
    sampleBit p i s = { s.setMask p (writeBit (s.mask p) i.val (pressedBit (s.nextLevel p))) with
      env := s.env.setData p (s.env.data p).tail
      trace := s.trace ++ [.rd (s.cfg.pin (.data p)) (s.nextLevel p)] } := by
  cases p <;> rfl

/-! ## Ends of a run -/

theorem fatal_eq (reason : Reason) (s : State) :
    fatal reason s = { s with
      trace := s.trace ++ [.log reason, .exit s.cfg.exitFail], reason := reason, exit := some s.cfg.exitFail,
      mode := .terminated } := by
  simp [fatal, State.record, State.setReason, State.setExit, State.setMode]

theorem hostKill_eq (s : State) :
    hostKill s = { s with
      trace := s.trace ++ [.killed], reason := .kill, exit := some s.cfg.exitKill, mode := .terminated } := rfl

theorem cancelExit_eq (s : State) :
    cancelExit s = { s with
      trace := s.trace ++ [.close, .exit 0], sinkOpen := false, reason := .cancel, exit := some 0,
      mode := .terminated } := by
  simp [cancelExit, State.record, State.setSinkOpen, State.setReason, State.setExit, State.setMode]

/-! ## Write results (R146) -/

theorem writeResult_ok (s : State) : writeResult .ok s = { s with failCnt := 0 } := rfl

theorem writeResult_fail_below (s : State) (h : ∀ limit, s.cfg.failLimit = some limit → s.failCnt + 1 < limit) :
    writeResult .fail s = { s with trace := s.trace ++ [.log .emit], failCnt := s.failCnt + 1 } := by
  have : limitReached ((s.record (.log .emit)).setFailCnt (s.failCnt + 1)) = false := by
    unfold limitReached
    cases hl : s.cfg.failLimit with
    | none => simp [hl]
    | some limit =>
      simp only [State.setFailCnt_cfg, State.record_cfg, hl, State.setFailCnt_failCnt]
      exact decide_eq_false (Nat.not_le.mpr (h limit hl))
  simp only [writeResult, this]
  rfl

theorem writeResult_fail_limit (s : State) (h : ∃ limit, s.cfg.failLimit = some limit ∧ limit ≤ s.failCnt + 1) :
    writeResult .fail s = { s with
      trace := s.trace ++ [.log .emit, .log .emitLimit, .exit s.cfg.exitFail], failCnt := s.failCnt + 1,
      reason := .emitLimit, exit := some s.cfg.exitFail, mode := .terminated } := by
  obtain ⟨limit, hl, hle⟩ := h
  have : limitReached ((s.record (.log .emit)).setFailCnt (s.failCnt + 1)) = true := by
    simp [limitReached, hl, hle]
  simp only [writeResult, this, if_true, fatal_eq]
  simp [State.record, State.setFailCnt]

/-- The three ways a write result goes: success, a failure below the limit, a failure at it. -/
theorem writeResult_cases (r : Ack) (s : State) :
    (r = .ok ∧ writeResult r s = { s with failCnt := 0 }) ∨
    (r = .fail ∧ (∀ limit, s.cfg.failLimit = some limit → s.failCnt + 1 < limit) ∧
      writeResult r s = { s with trace := s.trace ++ [.log .emit], failCnt := s.failCnt + 1 }) ∨
    (r = .fail ∧ (∃ limit, s.cfg.failLimit = some limit ∧ limit ≤ s.failCnt + 1) ∧
      writeResult r s = { s with
        trace := s.trace ++ [.log .emit, .log .emitLimit, .exit s.cfg.exitFail], failCnt := s.failCnt + 1,
        reason := .emitLimit, exit := some s.cfg.exitFail, mode := .terminated }) := by
  cases r with
  | ok => exact .inl ⟨rfl, writeResult_ok s⟩
  | fail =>
    by_cases h : ∃ limit, s.cfg.failLimit = some limit ∧ limit ≤ s.failCnt + 1
    · exact .inr (.inr ⟨rfl, h, writeResult_fail_limit s h⟩)
    · have h' : ∀ limit, s.cfg.failLimit = some limit → s.failCnt + 1 < limit := fun limit hl =>
        Nat.lt_of_not_le fun hle => h ⟨limit, hl, hle⟩
      exact .inr (.inl ⟨rfl, h', writeResult_fail_below s h'⟩)

/-! ## Common parts of a micro-op (R115) -/

theorem inMode_of_eq {m : Mode} {s : State} (h : s.mode = m) (run : Answer) : inMode m s run = run := if_pos h

theorem inMode_of_ne {m : Mode} {s : State} (h : s.mode ≠ m) (run : Answer) : inMode m s run = .fault .mode := if_neg h

theorem inMode_eq_next {m : Mode} {s : State} {run : Answer} {t : State} :
    inMode m s run = .next t ↔ s.mode = m ∧ run = .next t := by
  by_cases h : s.mode = m <;> simp [inMode, h]

theorem withIndex_of_lt {n : BitVec 4} (h : n.toNat < 12) (run : Fin 12 → Answer) :
    withIndex n run = run ⟨n.toNat, h⟩ := dif_pos h

theorem withIndex_of_ge {n : BitVec 4} (h : 12 ≤ n.toNat) (run : Fin 12 → Answer) :
    withIndex n run = .fault (.illegal .index) := dif_neg (Nat.not_lt.mpr h)

theorem withIndex_ofNat (i : Fin 12) (run : Fin 12 → Answer) : withIndex (BitVec.ofNat 4 i.val) run = run i := by
  have h : (BitVec.ofNat 4 i.val).toNat = i.val := by
    have := i.isLt
    simp only [BitVec.toNat_ofNat]
    omega
  rw [withIndex_of_lt (by rw [h]; exact i.isLt)]
  congr 1
  exact Fin.ext h

theorem withIndex_eq_next {n : BitVec 4} {run : Fin 12 → Answer} {t : State} :
    withIndex n run = .next t ↔ ∃ h : n.toNat < 12, run ⟨n.toNat, h⟩ = .next t := by
  by_cases h : n.toNat < 12 <;> simp [withIndex, h]

theorem advance_of_running {t : State} (h : t.mode ≠ .terminated) : advance t = { t with upc := t.upc + 1#12 } :=
  if_neg h

theorem advance_of_ended {t : State} (h : t.mode = .terminated) : advance t = t := if_pos h

theorem complete_running {s t : State} (h : s.upc ≠ 4095#12) (ht : t.mode ≠ .terminated) :
    complete s t = .next { t with upc := t.upc + 1#12 } := by
  rw [complete, if_neg h, advance_of_running ht]

theorem complete_ended {s t : State} (ht : t.mode = .terminated) : complete s t = .next t := by
  by_cases h : s.upc = 4095#12 <;> simp [complete, h, ht, advance_of_ended ht]

theorem complete_last {s t : State} (h : s.upc = 4095#12) (ht : t.mode ≠ .terminated) :
    complete s t = .fault (.pc t) := by simp [complete, h, ht]

/-- A micro-op that completes either ends the run, or adds one to upc from an address below 4095. -/
theorem complete_eq_next {s t u : State} :
    complete s t = .next u ↔
      (t.mode = .terminated ∧ u = t) ∨ (t.mode ≠ .terminated ∧ s.upc ≠ 4095#12 ∧ u = { t with upc := t.upc + 1#12 }) := by
  by_cases ht : t.mode = .terminated
  · simp [complete_ended ht, ht, eq_comm]
  · by_cases h : s.upc = 4095#12
    · simp [complete_last h ht, ht, h]
    · simp [complete_running h ht, ht, h, eq_comm]

/-! ## Output lines -/

theorem lineLevel_running {s : State} (h : s.mode ≠ .terminated) (role : PinRole) (q : Level) :
    s.lineLevel role q = q := if_neg h

theorem lineLevel_ended {s : State} (h : s.mode = .terminated) (role : PinRole) (q : Level) :
    s.lineLevel role q = Config.freeLine s role := if_pos h

end Sys2Proof.Machine
end

