-- ==== Sys2Proof/Laws/Exec.lean ====
section
/-! SUPPORT. What each micro-op does, said once: the cases of its effect, as records, and one inversion lemma
for exec. -/

namespace Sys2Proof.Machine

/-! ## The effects, case by case -/

theorem configurePins_eq (s : State) :
    configurePins s = { s with
      trace := s.trace ++ [.cfg s.cfg.pinClk .output, .cfg s.cfg.pinStb .output, .cfg s.cfg.pinData0 .input,
        .cfg s.cfg.pinData1 .input],
      pinModeClk := .output, pinModeStb := .output, pinModeData0 := .input, pinModeData1 := .input } := by
  simp [configurePins, pinConfigure, State.record, State.setPinMode, Config.pin]

theorem gpioSetup_snd (s : State) :
    (gpioSetup s).2 = { s with
      env := { s.env with gpio := s.env.gpio.tail }, trace := s.trace ++ [.gpioInit s.nextGpio] } := rfl

theorem sinkOpen_snd (s : State) :
    (sinkOpen s).2 = { s with
      env := { s.env with sink := s.env.sink.tail }, trace := s.trace ++ [.sinkInit s.nextSink] } := rfl

/-- Configuring the pins draws nothing from the sink's port. -/
theorem nextSink_configured (s : State) : (configurePins (gpioSetup s).2).nextSink = s.nextSink := by
  rw [configurePins_eq, gpioSetup_snd, State.nextSink, State.nextSink]

/-- The three ways INIT goes (R160). -/
theorem initialise_cases (s : State) :
    (s.nextGpio = .fail ∧ initialise s = { s with
      trace := s.trace ++ [.gpioInit .fail, .log .gpioInit, .exit s.cfg.exitFail],
      env := { s.env with gpio := s.env.gpio.tail }, reason := .gpioInit, exit := some s.cfg.exitFail,
      mode := .terminated }) ∨
    (s.nextGpio = .ok ∧ s.nextSink = .fail ∧ initialise s = { s with
      trace := s.trace ++ [.gpioInit .ok, .cfg s.cfg.pinClk .output, .cfg s.cfg.pinStb .output,
        .cfg s.cfg.pinData0 .input, .cfg s.cfg.pinData1 .input, .sinkInit .fail, .log .sinkInit,
        .exit s.cfg.exitFail],
      env := { s.env with gpio := s.env.gpio.tail, sink := s.env.sink.tail },
      pinModeClk := .output, pinModeStb := .output, pinModeData0 := .input, pinModeData1 := .input,
      reason := .sinkInit, exit := some s.cfg.exitFail, mode := .terminated }) ∨
    (s.nextGpio = .ok ∧ s.nextSink = .ok ∧ initialise s = { s with
      trace := s.trace ++ [.gpioInit .ok, .cfg s.cfg.pinClk .output, .cfg s.cfg.pinStb .output,
        .cfg s.cfg.pinData0 .input, .cfg s.cfg.pinData1 .input, .sinkInit .ok],
      env := { s.env with gpio := s.env.gpio.tail, sink := s.env.sink.tail },
      pinModeClk := .output, pinModeStb := .output, pinModeData0 := .input, pinModeData1 := .input,
      sinkOpen := true, mode := .polling }) := by
  cases hg : s.nextGpio with
  | fail => exact .inl ⟨rfl, by simp [initialise, gpioSetup, hg, fatal_eq, State.setEnv, State.record]⟩
  | ok =>
    have hi : initialise s = match s.nextSink with
        | .fail => fatal .sinkInit (sinkOpen (configurePins (gpioSetup s).2)).2
        | .ok => ((sinkOpen (configurePins (gpioSetup s).2)).2.setSinkOpen true).setMode .polling := by
      rw [← nextSink_configured s]
      simp only [initialise, gpioSetup, hg, sinkOpen]
      cases State.nextSink _ <;> rfl
    cases hk : s.nextSink with
    | fail =>
      exact .inr (.inl ⟨rfl, rfl, by
        rw [hi, hk, sinkOpen_snd, nextSink_configured, hk, fatal_eq, configurePins_eq, gpioSetup_snd, hg]; simp⟩)
    | ok =>
      exact .inr (.inr ⟨rfl, rfl, by
        rw [hi, hk, sinkOpen_snd, nextSink_configured, hk, configurePins_eq, gpioSetup_snd, hg]
        simp [State.setSinkOpen, State.setMode]⟩)

/-- The three ways CHKC goes (R161). -/
theorem checkCancel_cases (s : State) :
    (s.cfg.cancelPresent = false ∧ checkCancel s = s) ∨
    (s.cfg.cancelPresent = true ∧ s.nextCancel = false ∧ checkCancel s = { s with
      trace := s.trace ++ [.cancel false], env := { s.env with cancel := s.env.cancel.tail } }) ∨
    (s.cfg.cancelPresent = true ∧ s.nextCancel = true ∧ checkCancel s = { s with
      trace := s.trace ++ [.cancel true, .close, .exit 0], env := { s.env with cancel := s.env.cancel.tail },
      sinkOpen := false, reason := .cancel, exit := some 0, mode := .terminated }) := by
  cases hp : s.cfg.cancelPresent with
  | false => exact .inl ⟨rfl, by simp [checkCancel, hp]⟩
  | true =>
    cases hc : s.nextCancel with
    | false => exact .inr (.inl ⟨rfl, rfl, by simp [checkCancel, cancelInput, hp, hc, State.setEnv, State.record]⟩)
    | true =>
      exact .inr (.inr ⟨rfl, rfl, by simp [checkCancel, cancelInput, hp, hc, cancelExit_eq, State.setEnv, State.record]⟩)

/-- The three ways an emission goes (R144 to R146). -/
theorem emitAndCheck_cases (ev : SinkEvent) (s : State) :
    (s.nextEmit = .ok ∧ emitAndCheck ev s = { s with
      trace := s.trace ++ [ev.traced .ok], env := { s.env with emit := s.env.emit.tail }, failCnt := 0 }) ∨
    (s.nextEmit = .fail ∧ (∀ limit, s.cfg.failLimit = some limit → s.failCnt + 1 < limit) ∧
      emitAndCheck ev s = { s with
        trace := s.trace ++ [ev.traced .fail, .log .emit], env := { s.env with emit := s.env.emit.tail },
        failCnt := s.failCnt + 1 }) ∨
    (s.nextEmit = .fail ∧ (∃ limit, s.cfg.failLimit = some limit ∧ limit ≤ s.failCnt + 1) ∧
      emitAndCheck ev s = { s with
        trace := s.trace ++ [ev.traced .fail, .log .emit, .log .emitLimit, .exit s.cfg.exitFail],
        env := { s.env with emit := s.env.emit.tail }, failCnt := s.failCnt + 1,
        reason := .emitLimit, exit := some s.cfg.exitFail, mode := .terminated }) := by
  have h : emitAndCheck ev s = writeResult s.nextEmit (emit ev s).2 := rfl
  rcases writeResult_cases s.nextEmit (emit ev s).2 with ⟨hr, he⟩ | ⟨hr, hl, he⟩ | ⟨hr, hl, he⟩
  · exact .inl ⟨hr, by rw [h, he, emit_snd, hr]⟩
  · exact .inr (.inl ⟨hr, hl, by rw [h, he, emit_snd, hr]; simp⟩)
  · exact .inr (.inr ⟨hr, hl, by rw [h, he, emit_snd, hr]; simp⟩)

/-! ## One inversion lemma for exec -/

/-- The effect of a micro-op before upc advances; JMP has none of its own. -/
def effect : Instr → State → State
  | .init, s => initialise s
  | .clkl, s => driveClk .low s
  | .clkh, s => driveClk .high s
  | .stbl, s => driveStb .low s
  | .stbh, s => driveStb .high s
  | .smp p n, s => if h : n.toNat < 12 then sampleBit p ⟨n.toNat, h⟩ s else s
  | .emk p n, s => if h : n.toNat < 12 then emitAndCheck (keyEvent p ⟨n.toNat, h⟩ s) s else s
  | .sync, s => emitAndCheck .sync s
  | .chkc, s => checkCancel s
  | .wait, s => hostDelay s.cfg.cycleDelay s
  | .jmp _, s => s

theorem indexOk_iff (n : BitVec 4) : indexOk n = true ↔ n.toNat < 12 := by
  simp [indexOk, Nat.lt_succ_iff]

/-- In its own mode a well-formed micro-op other than JMP has its effect and completes (R115). -/
theorem exec_of_mode {i : Instr} {s : State} (hwf : i.wf = true) (hj : ∀ a, i ≠ .jmp a) (hm : s.mode = modeOf i) :
    exec i s = complete s (effect i s) := by
  cases i with
  | smp p n =>
    have h := (indexOk_iff n).mp hwf
    simp only [exec, execSmp, withIndex_of_lt h, effect, dif_pos h]
    exact inMode_of_eq hm _
  | emk p n =>
    have h := (indexOk_iff n).mp hwf
    simp only [exec, execEmk, withIndex_of_lt h, effect, dif_pos h]
    exact inMode_of_eq hm _
  | jmp a => exact absurd rfl (hj a)
  | init => exact inMode_of_eq hm _
  | clkl => exact inMode_of_eq hm _
  | clkh => exact inMode_of_eq hm _
  | stbl => exact inMode_of_eq hm _
  | stbh => exact inMode_of_eq hm _
  | sync => exact inMode_of_eq hm _
  | chkc => exact inMode_of_eq hm _
  | wait => exact inMode_of_eq hm _

theorem exec_jmp {s : State} (a : RomAddr) (hm : s.mode = .polling) : exec (.jmp a) s = .next { s with upc := a } :=
  inMode_of_eq hm _

/-- Outside its mode a well-formed micro-op faults F_MODE (R115). -/
theorem exec_of_wrong_mode {i : Instr} {s : State} (hwf : i.wf = true) (hm : s.mode ≠ modeOf i) :
    exec i s = .fault .mode := by
  cases i with
  | smp p n =>
    simp only [exec, execSmp, withIndex_of_lt ((indexOk_iff n).mp hwf)]
    exact inMode_of_ne hm _
  | emk p n =>
    simp only [exec, execEmk, withIndex_of_lt ((indexOk_iff n).mp hwf)]
    exact inMode_of_ne hm _
  | jmp a => exact inMode_of_ne hm _
  | init => exact inMode_of_ne hm _
  | clkl => exact inMode_of_ne hm _
  | clkh => exact inMode_of_ne hm _
  | stbl => exact inMode_of_ne hm _
  | stbh => exact inMode_of_ne hm _
  | sync => exact inMode_of_ne hm _
  | chkc => exact inMode_of_ne hm _
  | wait => exact inMode_of_ne hm _

/-- An ill-formed micro-op faults F_ILLEGAL (R106(d)). -/
theorem exec_of_ill_formed {i : Instr} {s : State} (hwf : i.wf = false) : exec i s = .fault (.illegal .index) := by
  cases i with
  | smp p n =>
    unfold exec execSmp
    exact withIndex_of_ge (Nat.not_lt.mp fun h => by simp [Instr.wf, (indexOk_iff n).mpr h] at hwf) _
  | emk p n =>
    unfold exec execEmk
    exact withIndex_of_ge (Nat.not_lt.mp fun h => by simp [Instr.wf, (indexOk_iff n).mpr h] at hwf) _
  | jmp a => simp [Instr.wf] at hwf
  | init => simp [Instr.wf] at hwf
  | clkl => simp [Instr.wf] at hwf
  | clkh => simp [Instr.wf] at hwf
  | stbl => simp [Instr.wf] at hwf
  | stbh => simp [Instr.wf] at hwf
  | sync => simp [Instr.wf] at hwf
  | chkc => simp [Instr.wf] at hwf
  | wait => simp [Instr.wf] at hwf

/-- What it takes for exec to answer a next state, and which one it is: a jump, or an effect that completes. -/
theorem exec_eq_next {i : Instr} {s t : State} (h : exec i s = .next t) :
    i.wf = true ∧ s.mode = modeOf i ∧
      ((∃ a, i = .jmp a ∧ t = { s with upc := a }) ∨
       ((∀ a, i ≠ .jmp a) ∧ (effect i s).mode = .terminated ∧ t = effect i s) ∨
       ((∀ a, i ≠ .jmp a) ∧ (effect i s).mode ≠ .terminated ∧ s.upc ≠ 4095#12 ∧
          t = { effect i s with upc := (effect i s).upc + 1#12 })) := by
  by_cases hwf : i.wf = true
  · by_cases hm : s.mode = modeOf i
    · refine ⟨hwf, hm, ?_⟩
      by_cases hj : ∃ a, i = .jmp a
      · obtain ⟨a, rfl⟩ := hj
        rw [exec_jmp a hm] at h
        exact .inl ⟨a, rfl, by cases h; rfl⟩
      · have hj' : ∀ a, i ≠ .jmp a := fun a ha => hj ⟨a, ha⟩
        rw [exec_of_mode hwf hj' hm, complete_eq_next] at h
        rcases h with ⟨ht, hu⟩ | ⟨ht, hl, hu⟩
        · exact .inr (.inl ⟨hj', ht, hu⟩)
        · exact .inr (.inr ⟨hj', ht, hl, hu⟩)
    · rw [exec_of_wrong_mode hwf hm] at h
      cases h
  · rw [exec_of_ill_formed (by simpa using hwf)] at h
    cases h

/-- No effect writes the configuration, upc or the kill countdown. -/
theorem effect_keeps (i : Instr) (s : State) :
    (effect i s).cfg = s.cfg ∧ (effect i s).upc = s.upc ∧ (effect i s).env.kill = s.env.kill := by
  cases i with
  | init => rcases initialise_cases s with ⟨_, h⟩ | ⟨_, _, h⟩ | ⟨_, _, h⟩ <;> simp [effect, h]
  | smp p n =>
    by_cases h : n.toNat < 12
    · simp [effect, h, sampleBit_eq]
    · simp [effect, h]
  | emk p n =>
    by_cases h : n.toNat < 12
    · rcases emitAndCheck_cases (keyEvent p ⟨n.toNat, h⟩ s) s with ⟨_, he⟩ | ⟨_, _, he⟩ | ⟨_, _, he⟩ <;>
        simp [effect, h, he]
    · simp [effect, h]
  | sync => rcases emitAndCheck_cases .sync s with ⟨_, h⟩ | ⟨_, _, h⟩ | ⟨_, _, h⟩ <;> simp [effect, h]
  | chkc => rcases checkCancel_cases s with ⟨_, h⟩ | ⟨_, _, h⟩ | ⟨_, _, h⟩ <;> simp [effect, h]
  | clkl => exact ⟨rfl, rfl, rfl⟩
  | clkh => exact ⟨rfl, rfl, rfl⟩
  | stbl => exact ⟨rfl, rfl, rfl⟩
  | stbh => exact ⟨rfl, rfl, rfl⟩
  | wait => exact ⟨rfl, rfl, rfl⟩
  | jmp a => exact ⟨rfl, rfl, rfl⟩

/-- When a well-formed micro-op faults, and with which fault (R115, R209). -/
theorem exec_eq_fault {i : Instr} {s : State} {f : Fault} (hwf : i.wf = true) :
    exec i s = .fault f ↔ (s.mode ≠ modeOf i ∧ f = .mode) ∨
      (s.mode = modeOf i ∧ (∀ a, i ≠ .jmp a) ∧ s.upc = 4095#12 ∧ (effect i s).mode ≠ .terminated ∧
        f = .pc (effect i s)) := by
  by_cases hm : s.mode = modeOf i
  · by_cases hj : ∃ a, i = .jmp a
    · obtain ⟨a, rfl⟩ := hj
      simp [exec_jmp a hm, hm]
    · have hj' : ∀ a, i ≠ .jmp a := fun a ha => hj ⟨a, ha⟩
      rw [exec_of_mode hwf hj' hm, complete]
      by_cases h1 : s.upc = 4095#12 <;> by_cases h2 : (effect i s).mode = .terminated <;>
        simp [h1, h2, hm, hj', eq_comm]
  · simp [exec_of_wrong_mode hwf hm, hm, eq_comm]

/-- The address and the ROM take no part in an emission. -/
theorem emitAndCheck_elsewhere (f : State → State) (ev : SinkEvent) (s : State)
    (hf : (∃ u, f = fun s => { s with upc := u }) ∨
      (∃ r, f = fun s => { s with cfg := { s.cfg with rom := r } })) :
    emitAndCheck ev (f s) = f (emitAndCheck ev s) := by
  rcases hf with ⟨u, rfl⟩ | ⟨u, rfl⟩ <;>
  rcases emitAndCheck_cases ev s with ⟨h, e⟩ | ⟨h, h', e⟩ | ⟨h, h', e⟩ <;>
  rcases emitAndCheck_cases ev _ with ⟨k, e'⟩ | ⟨k, k', e'⟩ | ⟨k, k', e'⟩ <;>
  rw [e', e] <;> (change s.nextEmit = _ at k) <;> (rw [h] at k) <;> first
  | (cases k; done)
  | (exfalso; obtain ⟨l, a, b⟩ := k'; have := h' l a; simp only [] at b; omega)
  | (exfalso; obtain ⟨l, a, b⟩ := h'; have := k' l a; simp only [] at this; omega)

/-- The address and the ROM take no part in any effect: changing either before it is changing it after. -/
theorem effect_elsewhere (f : State → State) (i : Instr) (s : State)
    (hf : (∃ u, f = fun s => { s with upc := u }) ∨
      (∃ r, f = fun s => { s with cfg := { s.cfg with rom := r } })) :
    effect i (f s) = f (effect i s) := by
  cases i with
  | init =>
    rcases hf with ⟨u, rfl⟩ | ⟨u, rfl⟩ <;>
    rcases initialise_cases s with ⟨h, e⟩ | ⟨h, h', e⟩ | ⟨h, h', e⟩ <;>
    rcases initialise_cases _ with ⟨k, e'⟩ | ⟨k, k', e'⟩ | ⟨k, k', e'⟩ <;>
    simp only [effect] <;> rw [e', e] <;> first
    | (change s.nextGpio = _ at k; rw [h] at k; cases k; done)
    | (change s.nextSink = _ at k'; rw [h'] at k'; cases k')
  | smp p n =>
    by_cases h : n.toNat < 12
    · simp only [effect, h, dif_pos, sampleBit_eq]
      rcases hf with ⟨u, rfl⟩ | ⟨u, rfl⟩ <;> cases p <;> rfl
    · simp [effect, h]
  | emk p n =>
    by_cases h : n.toNat < 12
    · simp only [effect, h, dif_pos]
      have hk : keyEvent p ⟨n.toNat, h⟩ (f s) = keyEvent p ⟨n.toNat, h⟩ s := by
        rcases hf with ⟨u, rfl⟩ | ⟨u, rfl⟩ <;> cases p <;> rfl
      rw [hk]
      exact emitAndCheck_elsewhere f _ s hf
    · simp [effect, h]
  | sync => exact emitAndCheck_elsewhere f _ s hf
  | chkc =>
    rcases hf with ⟨u, rfl⟩ | ⟨u, rfl⟩ <;>
    rcases checkCancel_cases s with ⟨h, e⟩ | ⟨h, h', e⟩ | ⟨h, h', e⟩ <;>
    rcases checkCancel_cases _ with ⟨k, e'⟩ | ⟨k, k', e'⟩ | ⟨k, k', e'⟩ <;>
    simp only [effect] <;> rw [e', e] <;> first
    | (change s.cfg.cancelPresent = _ at k; rw [h] at k; cases k; done)
    | (change s.nextCancel = _ at k'; rw [h'] at k'; cases k')
  | clkl => rcases hf with ⟨u, rfl⟩ | ⟨u, rfl⟩ <;> rfl
  | clkh => rcases hf with ⟨u, rfl⟩ | ⟨u, rfl⟩ <;> rfl
  | stbl => rcases hf with ⟨u, rfl⟩ | ⟨u, rfl⟩ <;> rfl
  | stbh => rcases hf with ⟨u, rfl⟩ | ⟨u, rfl⟩ <;> rfl
  | wait => rcases hf with ⟨u, rfl⟩ | ⟨u, rfl⟩ <;> rfl
  | jmp a => rcases hf with ⟨u, rfl⟩ | ⟨u, rfl⟩ <;> rfl

end Sys2Proof.Machine
end

