-- ==== Sys2Proof/Laws/Keys.lean ====
section
/-! SUPPORT. Keys of any type: the numbers stand for the keys, the tables of the configuration that runs, and the
effects under a renaming of the keys. -/

namespace Sys2Proof.Machine

/-! ## Numbers and keys -/

@[simp] theorem length_allKeys {K : Type} (c : KeyedConfig K) : c.allKeys.length = 24 := by simp [KeyedConfig.allKeys]

theorem mem_allKeys {K : Type} (c : KeyedConfig K) (p : Pad) (j : Fin 12) : (c.keys p)[j] ∈ c.allKeys := by
  cases p <;> simp [KeyedConfig.allKeys, KeyedConfig.keys]

/-- The number of a key of the tables stands for that key. -/
theorem keyOf_code {K : Type} [DecidableEq K] (c : KeyedConfig K) {key : K} (h : key ∈ c.allKeys) :
    c.keyOf (c.code key) = some key := by
  have hl : (c.allKeys.findIdx fun k => decide (k = key)) < c.allKeys.length :=
    List.findIdx_lt_length_of_exists ⟨key, h, by simp⟩
  have h24 := length_allKeys c
  have hn : (c.code key).toNat = c.allKeys.findIdx fun k => decide (k = key) := by
    simp [KeyedConfig.code]
    omega
  have hk := List.findIdx_getElem (w := hl)
  simp only [decide_eq_true_eq] at hk
  rw [KeyedConfig.keyOf, hn, List.getElem?_eq_getElem hl, hk]

theorem coded_table {K : Type} [DecidableEq K] (c : KeyedConfig K) (p : Pad) (j : Fin 12) :
    (c.coded.table p)[j] = ⟨(c.settings.table p)[j].sel, c.code (c.keys p)[j]⟩ := by
  cases p <;> simp [KeyedConfig.coded, Config.table, KeyedConfig.codedTable]

@[simp] theorem lift_next {K : Type} (c : KeyedConfig K) (t : State) : c.lift (.next t) = .next ⟨c, t⟩ := rfl
@[simp] theorem lift_fault {K : Type} (c : KeyedConfig K) (f : Fault) : c.lift (.fault f) = .fault f := rfl
@[simp] theorem lift_refused {K : Type} (c : KeyedConfig K) (r : Refusal) : c.lift (.refused r) = .refused r := rfl

/-! ## Renaming -/

@[simp] theorem renameKeys_mode (f : KeyCode → KeyCode) (s : State) : (s.renameKeys f).mode = s.mode := rfl
@[simp] theorem renameKeys_upc (f : KeyCode → KeyCode) (s : State) : (s.renameKeys f).upc = s.upc := rfl
@[simp] theorem renameKeys_env (f : KeyCode → KeyCode) (s : State) : (s.renameKeys f).env = s.env := rfl
@[simp] theorem renameKeys_failCnt (f : KeyCode → KeyCode) (s : State) : (s.renameKeys f).failCnt = s.failCnt := rfl
@[simp] theorem renameKeys_failLimit (f : KeyCode → KeyCode) (s : State) :
    (s.renameKeys f).cfg.failLimit = s.cfg.failLimit := rfl
@[simp] theorem renameKeys_trace (f : KeyCode → KeyCode) (s : State) :
    (s.renameKeys f).trace = s.trace.map (Event.renameKey f) := rfl

theorem renameTable_getElem (f : KeyCode → KeyCode) (table : Vector TableEntry 12) (j : Fin 12) :
    (renameTable f table)[j] = { table[j] with key := f table[j].key } := by simp [renameTable]

/-- An emission under a renaming, of the event renamed. -/
theorem emitAndCheck_renameKeys (f : KeyCode → KeyCode) {ev ev' : SinkEvent} (s : State)
    (h : ∀ r, ev'.traced r = (ev.traced r).renameKey f) :
    emitAndCheck ev' (s.renameKeys f) = (emitAndCheck ev s).renameKeys f := by
  have hn : (s.renameKeys f).nextEmit = s.nextEmit := rfl
  rcases emitAndCheck_cases ev s with ⟨a, e⟩ | ⟨a, b, e⟩ | ⟨a, b, e⟩ <;>
  rcases emitAndCheck_cases ev' (s.renameKeys f) with ⟨k, e'⟩ | ⟨k, k', e'⟩ | ⟨k, k', e'⟩ <;> rw [hn, a] at k
  all_goals try cases k
  · rw [e', e, h]
    simp [State.renameKeys]
  · rw [e', e, h]
    simp [State.renameKeys, Event.renameKey]
  · obtain ⟨limit, x, y⟩ := k'
    have := b limit x
    simp only [renameKeys_failCnt] at y
    omega
  · obtain ⟨limit, x, y⟩ := b
    have := k' limit x
    simp only [renameKeys_failCnt] at this
    omega
  · rw [e', e, h]
    simp [State.renameKeys, Event.renameKey]

theorem keyEvent_renameKeys (f : KeyCode → KeyCode) (p : Pad) (j : Fin 12) (s : State) (r : Ack) :
    (keyEvent p j (s.renameKeys f)).traced r = ((keyEvent p j s).traced r).renameKey f := by
  cases p <;> simp only [keyEvent, tableRead, State.renameKeys, Config.table, renameTable_getElem] <;> rfl

end Sys2Proof.Machine
end

