-- ==== Sys2Proof/Laws/PerInstr.lean ====
section
/-! SUPPORT. Per-instruction facts about the instruction as text: its word lies in its own row of
spec/opcode_table.json, under its own mnemonic. -/

namespace Sys2Proof.Laws.OpcodeRow

/-- The row of a well-formed micro-op stands in the table under its mnemonic, and its word matches it. -/
def Statement (i : Instr) : Prop :=
  i.wf = true →
    i.row ∈ opcodeTable ∧ i.row.mnemonic = i.mnemonic ∧ encode i &&& i.row.mask = i.row.pattern

theorem init : Statement .init := fun _ => by decide
theorem clkl : Statement .clkl := fun _ => by decide
theorem clkh : Statement .clkh := fun _ => by decide
theorem stbl : Statement .stbl := fun _ => by decide
theorem stbh : Statement .stbh := fun _ => by decide
theorem sync : Statement .sync := fun _ => by decide
theorem chkc : Statement .chkc := fun _ => by decide
theorem wait : Statement .wait := fun _ => by decide

theorem smp (p : Pad) (n : BitVec 4) : Statement (.smp p n) := fun _ => by
  revert n
  cases p <;> decide

theorem emk (p : Pad) (n : BitVec 4) : Statement (.emk p n) := fun _ => by
  revert n
  cases p <;> decide

theorem jmp (t : RomAddr) : Statement (.jmp t) := fun _ => by
  refine ⟨by simp [Instr.row, opcodeTable], rfl, ?_⟩
  apply BitVec.eq_of_getLsbD_eq
  intro k hk
  by_cases h : k < 12
  · have h1 : (0xF000#16).getLsbD k = false := by interval_cases k <;> rfl
    have h2 : (0x8000#16).getLsbD k = false := by interval_cases k <;> rfl
    simp [Instr.row, h1, h2]
  · have h2 : k = 12 ∨ k = 13 ∨ k = 14 ∨ k = 15 := by omega
    rcases h2 with rfl | rfl | rfl | rfl <;> simp [Instr.row, encode]

end Sys2Proof.Laws.OpcodeRow
end

