-- ==== Sys2Proof/Laws/Step.lean ====
section
/-! SUPPORT. What a step does, said once (40_pin_sequencer.md R115): one lemma for each way it can go, and the
inversion lemma for a next state. -/

namespace Sys2Proof.Machine

theorem passBoundary_eq (s : State) :
    passBoundary s = { s with env := { s.env with kill := s.env.kill.map Nat.pred } } := rfl

/-- Without a kill laid down the boundary changes nothing. -/
theorem passBoundary_of_no_kill {s : State} (h : s.env.kill = none) : passBoundary s = s := by
  rcases s with ⟨cfg, mode, upc, clkQ, stbQ, a, b, c, d, mask0, mask1, so, ex, re, fc, tr, env⟩
  rcases env with ⟨e1, e2, e3, e4, e5, e6, kill⟩
  obtain rfl : kill = none := h
  rfl

theorem killDue_iff (s : State) : killDue s = true ↔ s.env.kill = some 0 := by simp [killDue]

theorem killDue_of_none {s : State} (h : s.env.kill = none) : killDue s = false := by simp [killDue, h]

theorem step_refused_config {s : State} (h : s.cfg.accepted = false) : step s = .fault .config := by
  simp [step, sequencerStep, h]

theorem step_ended {s : State} (h : s.cfg.accepted = true) (hm : s.mode = .terminated) :
    step s = .refused .runEnded := by simp [step, sequencerStep, h, hm]

theorem step_killed {s : State} (h : s.cfg.accepted = true) (hm : s.mode ≠ .terminated)
    (hk : s.env.kill = some 0) : step s = .next (hostKill s) := by
  simp [step, sequencerStep, h, hm, killDue, hk]

theorem step_ready {s : State} (h : Ready s) : step s = fetchAndExecute (passBoundary s) := by
  simp [step, sequencerStep, h.1, h.2.1, h.2.2]

theorem romFetch_passBoundary (s : State) : romFetch (passBoundary s) = s.cfg.rom[s.upc.toNat]? := rfl

theorem step_fetch_outside {s : State} (h : Ready s) (hf : s.cfg.rom[s.upc.toNat]? = none) :
    step s = .fault (.pc (passBoundary s)) := by
  simp [step_ready h, fetchAndExecute, romFetch_passBoundary, hf]

theorem step_illegal {s : State} {w : Word} {why : Illegal} (h : Ready s) (hf : s.cfg.rom[s.upc.toNat]? = some w)
    (hd : decode w = .error why) : step s = .fault (.illegal why) := by
  simp [step_ready h, fetchAndExecute, romFetch_passBoundary, hf, hd]

theorem step_runs {s : State} {w : Word} {i : Instr} (h : Ready s) (hf : s.cfg.rom[s.upc.toNat]? = some w)
    (hd : decode w = .ok i) : step s = exec i (passBoundary s) := by
  simp [step_ready h, fetchAndExecute, romFetch_passBoundary, hf, hd]

/-- What it takes for a step to answer a next state: a kill at the boundary, or a decoded micro-op that has a
next state. -/
theorem step_eq_next {s t : State} (h : step s = .next t) :
    s.cfg.accepted = true ∧ s.mode ≠ .terminated ∧
      ((s.env.kill = some 0 ∧ t = hostKill s) ∨
       (killDue s = false ∧ ∃ w i, s.cfg.rom[s.upc.toNat]? = some w ∧ decode w = .ok i ∧
          exec i (passBoundary s) = .next t)) := by
  by_cases hc : s.cfg.accepted = true
  · by_cases hm : s.mode = .terminated
    · rw [step_ended hc hm] at h
      cases h
    · refine ⟨hc, hm, ?_⟩
      by_cases hk : s.env.kill = some 0
      · rw [step_killed hc hm hk] at h
        exact .inl ⟨hk, by cases h; rfl⟩
      · have hr : Ready s := ⟨hc, hm, by simpa [killDue] using hk⟩
        cases hf : s.cfg.rom[s.upc.toNat]? with
        | none =>
          rw [step_fetch_outside hr hf] at h
          cases h
        | some w =>
          cases hd : decode w with
          | error why =>
            rw [step_illegal hr hf hd] at h
            cases h
          | ok i => exact .inr ⟨hr.2.2, w, i, rfl, hd, by rw [← step_runs hr hf hd]; exact h⟩
  · rw [step_refused_config (by simpa using hc)] at h
    cases h

/-! ## Executing a list -/

theorem execAll_append (a b : List Instr) {s t : State} (h : execAll a s = .next t) :
    execAll (a ++ b) s = execAll b t := by
  induction a generalizing s with
  | nil =>
    cases h
    rfl
  | cons i rest ih =>
    simp only [execAll, List.cons_append] at h ⊢
    split at h
    · rename_i u hu
      simpa [hu] using ih h
    · cases h
    · cases h

theorem execAll_cons {i : Instr} {rest : List Instr} {s u : State} (h : exec i s = .next u) :
    execAll (i :: rest) s = execAll rest u := by simp [execAll, h]

theorem execAll_cons_next {i : Instr} {rest : List Instr} {s t : State} (h : execAll (i :: rest) s = .next t) :
    ∃ u, exec i s = .next u ∧ execAll rest u = .next t := by
  simp only [execAll] at h
  split at h
  · exact ⟨_, by assumption, h⟩
  · cases h
  · cases h

theorem execAll_append_next {a b : List Instr} {s t : State} (h : execAll (a ++ b) s = .next t) :
    ∃ u, execAll a s = .next u ∧ execAll b u = .next t := by
  induction a generalizing s with
  | nil => exact ⟨s, rfl, h⟩
  | cons i rest ih =>
    obtain ⟨u, h1, h2⟩ := execAll_cons_next h
    obtain ⟨v, h3, h4⟩ := ih h2
    exact ⟨v, by rw [execAll_cons h1, h3], h4⟩

/-- A run of n + 1 steps is a step and a run of n. -/
theorem run_succ {n : Nat} {s u : State} (h : step s = .next u) :
    Sys2Proof.core.run (n + 1) s = Sys2Proof.core.run n u := by
  have h : Sys2Proof.core.step s = .next u := h
  simp only [Host.Core.run, h]

end Sys2Proof.Machine
end

