-- ==== Sys2Proof/Tests/Slice0.lean ====
section
/-! SUPPORT. Tests of the model. Expected values are those of 95_test_vectors.md (L2.1 to L2.10) and of the
listing of 43_reference_sequence.md R181; then, for each obligation that has hypotheses, a state and operands
that meet them. -/

set_option maxRecDepth 100000

namespace Sys2Proof.Tests

open Sys2Proof.Machine

/-! ## Helpers -/

/-- The next state of an answer. -/
def after : Answer → Option State
  | .next t => some t
  | .fault _ => none
  | .refused _ => none

/-- The fault of an answer. -/
def faultOf : Answer → Option Fault
  | .next _ => none
  | .fault f => some f
  | .refused _ => none

theorem next_of_after {a : Answer} (h : (after a).isSome = true) : ∃ t, a = .next t := by
  cases a with
  | next t => exact ⟨t, rfl⟩
  | fault f => simp [after] at h
  | refused r => simp [after] at h

/-- An environment with these coming answers, and no kill. -/
def answers (data : List Level) (acks : List Ack) (cancels : List Bool) : Env where
  gpio := ⟨[.ok], 0⟩
  sink := ⟨[.ok], 0⟩
  data0 := ⟨data, 0⟩
  data1 := ⟨data, 0⟩
  emit := ⟨acks, 0⟩
  cancel := ⟨cancels, 0⟩
  kill := none

/-- Just reset, with GPIO and sink about to succeed. -/
def fresh : State := State.resetWith referenceConfig (answers [] [] [])

/-- Polling at an address under a configuration. -/
def pollingUnder (c : Config) (upc : RomAddr) (e : Env) : State :=
  { State.resetWith c e with
    mode := .polling
    upc := upc
    pinModeClk := .output
    pinModeStb := .output
    pinModeData0 := .input
    pinModeData1 := .input
    sinkOpen := true }

/-- Polling at an address, under the reference configuration. -/
def polling (upc : RomAddr) (e : Env) : State := pollingUnder referenceConfig upc e

/-- Polling at address 5, with nothing laid down. -/
def plain : State := polling 5#12 (answers [] [] [])

/-- The reference configuration with a finite write-failure limit. -/
def limited (limit : Nat) : Config := { referenceConfig with failLimit := some limit }

/-- A run that has ended by a fatal error. -/
def ended : State := fatal .gpioInit fresh

/-! ## Well-formedness: one ill-formed term for each check -/

theorem test_wf_smp : (Instr.smp .pad0 11#4).wf = true ∧ (Instr.smp .pad0 12#4).wf = false := by decide
theorem test_wf_emk : (Instr.emk .pad1 11#4).wf = true ∧ (Instr.emk .pad1 15#4).wf = false := by decide

theorem test_wf_pins :
    (let c := { referenceConfig with pinData1 := 0 }; c.pinsDistinct = false ∧ c.wf = false) := by decide

theorem test_wf_selectors :
    (let c := { referenceConfig with table0 := referenceConfig.table0.set 3 ⟨0#16, 3#16⟩ }
     c.selectorsNonzero = false ∧ c.wf = false) := by decide

theorem test_wf_keys :
    (let c := { referenceConfig with table1 := referenceConfig.table1.set 7 ⟨128#16, 0#16⟩ }
     c.keysDisjoint = false ∧ c.wf = false) := by decide

theorem test_wf_rom_empty :
    (let c := { referenceConfig with rom := [] }; c.romSizeOk = false ∧ c.wf = false) := by decide

theorem test_wf_rom_long :
    (let c := { referenceConfig with rom := List.replicate 4097 0x1000#16 }
     c.romSizeOk = false ∧ c.wf = false) := by
  simp [Config.romSizeOk, Config.wf]

theorem test_wf_delay :
    { referenceConfig with cycleDelay := 9999 }.accepted = false ∧
    { referenceConfig with cycleDelay := 100000 }.accepted = false ∧
    { referenceConfig with cycleDelay := 99999 }.accepted = true := by decide

theorem test_wf_exit_fail : { referenceConfig with exitFail := 0 }.accepted = false := by decide

theorem test_wf_fail_limit : (limited 0).accepted = false ∧ (limited 1).accepted = true := by decide

theorem test_config_refused :
    faultOf (boot { referenceConfig with pinStb := 0 } Env.unscripted) = some .config := by decide

/-! ## Decoding: words of L2.1 -/

theorem test_decode_init : decode 0b0001000000000000#16 = .ok .init := by decide
theorem test_decode_clkl : decode 0b0010000000000000#16 = .ok .clkl := by decide
theorem test_decode_clkh : decode 0b0010000000000001#16 = .ok .clkh := by decide
theorem test_decode_stbl : decode 0b0010000100000000#16 = .ok .stbl := by decide
theorem test_decode_stbh : decode 0b0010000100000001#16 = .ok .stbh := by decide
theorem test_decode_smp : decode 0b0011000100001011#16 = .ok (.smp .pad1 11#4) := by decide
theorem test_decode_emk : decode 0b0100000100001011#16 = .ok (.emk .pad1 11#4) := by decide
theorem test_decode_sync : decode 0b0101000000000000#16 = .ok .sync := by decide
theorem test_decode_chkc : decode 0b0110000000000000#16 = .ok .chkc := by decide
theorem test_decode_wait : decode 0b0111000000000000#16 = .ok .wait := by decide
theorem test_decode_jmp : decode 0b1000111111111111#16 = .ok (.jmp 4095#12) := by decide

theorem test_decode_more :
    decode 0x3000#16 = .ok (.smp .pad0 0#4) ∧ decode 0x300B#16 = .ok (.smp .pad0 11#4) ∧
    decode 0x3100#16 = .ok (.smp .pad1 0#4) ∧ decode 0x4000#16 = .ok (.emk .pad0 0#4) ∧
    decode 0x8000#16 = .ok (.jmp 0#12) ∧ decode 0x8001#16 = .ok (.jmp 1#12) := by decide

theorem test_illegal_op :
    decode 0x0000#16 = .error .reservedOp ∧ decode 0x9000#16 = .error .reservedOp ∧
    decode 0xF123#16 = .error .reservedOp ∧ decode 0xFFFF#16 = .error .reservedOp := by decide

theorem test_illegal_z :
    decode 0x1001#16 = .error .formatZ ∧ decode 0x5001#16 = .error .formatZ ∧
    decode 0x6800#16 = .error .formatZ ∧ decode 0x7001#16 = .error .formatZ := by decide

theorem test_illegal_w :
    decode 0x2002#16 = .error .formatW ∧ decode 0x2080#16 = .error .formatW ∧
    decode 0x2200#16 = .error .formatW := by decide

theorem test_illegal_pn :
    decode 0x300C#16 = .error .index ∧ decode 0x300F#16 = .error .index ∧ decode 0x400F#16 = .error .index ∧
    decode 0x3010#16 = .error .formatPN ∧ decode 0x3200#16 = .error .formatPN := by decide

/-- Words of R181, from each part of the listing. -/
theorem test_listing :
    (refRom false .perPad).take 7 = [0x1000#16, 0x2101#16, 0x2100#16, 0x3000#16, 0x2001#16, 0x2000#16, 0x3001#16] ∧
    ((refRom false .perPad).drop 36).take 3 = [0x300B#16, 0x4000#16, 0x4001#16] ∧
    ((refRom false .perPad).drop 48).take 4 = [0x400B#16, 0x5000#16, 0x2101#16, 0x2100#16] ∧
    (refRom false .perPad).drop 97 = [0x410B#16, 0x5000#16, 0x6000#16, 0x7000#16, 0x8001#16] := by decide

theorem test_table_word :
    decodeTableWord 16 0x3105 = some (.smp .pad1 5#4) ∧ decodeTableWord 16 0x310C = none := by decide

/-! ## One step of each micro-op -/

/-- L2.7 row 1. -/
theorem test_init :
    (after (step fresh)).map (fun t => (t.mode, t.sinkOpen, t.upc, t.pinModeData1)) =
      some (.polling, true, 1#12, .input) := by decide

/-- L2.7 row 2. -/
theorem test_init_gpio_fails :
    (after (exec .init (State.resetWith referenceConfig
      { answers [] [] [] with gpio := ⟨[.fail], 0⟩ }))).map (fun t => (t.trace, t.upc, t.pinModeClk)) =
      some ([.gpioInit .fail, .log .gpioInit, .exit 1], 0#12, .unconfigured) := by decide

/-- L2.2: the same level again is still traced, and STB_Q is untouched. -/
theorem test_clkh :
    (after (exec .clkh { plain with clkQ := .high, stbQ := .high })).map (fun t => (t.clkQ, t.stbQ, t.trace)) =
      some (.high, .high, [.wr referenceConfig.pinClk .high]) := by decide

theorem test_clkl :
    (after (exec .clkl { plain with clkQ := .high, stbQ := .high })).map (fun t => (t.clkQ, t.stbQ, t.trace)) =
      some (.low, .high, [.wr referenceConfig.pinClk .low]) := by decide

theorem test_stbh :
    (after (exec .stbh plain)).map (fun t => (t.clkQ, t.stbQ, t.trace)) =
      some (.low, .high, [.wr referenceConfig.pinStb .high]) := by decide

theorem test_stbl :
    (after (exec .stbl { plain with clkQ := .high, stbQ := .high })).map (fun t => (t.clkQ, t.stbQ, t.trace)) =
      some (.high, .low, [.wr referenceConfig.pinStb .low]) := by decide

/-- L2.2, last row: no pin write in INITIALIZING. -/
theorem test_clkh_mode : faultOf (exec .clkh fresh) = some .mode := by decide

/-- L2.3 row 2: a HIGH read clears the bit. -/
theorem test_smp_clears :
    (after (exec (.smp .pad0 3#4)
      { polling 5#12 (answers [.high] [] []) with mask0 := 0x0008#16 })).map
        (fun t => (t.mask0, t.mask1, t.trace, t.upc)) =
      some (0x0000#16, 0x0000#16, [.rd referenceConfig.pinData0 .high], 6#12) := by decide

/-- L2.3 row 5, on pad 1. -/
theorem test_smp_sets :
    (after (exec (.smp .pad1 0#4) (polling 5#12 (answers [.low] [] [])))).map
        (fun t => (t.mask0, t.mask1, t.trace)) =
      some (0x0000#16, 0x0001#16, [.rd referenceConfig.pinData1 .low]) := by decide

/-- L2.6 row 4: a failed write under P_FAIL_LIMIT = INF. -/
theorem test_emk_fails :
    (after (exec (.emk .pad1 11#4)
      { polling 5#12 (answers [] [.fail] []) with mask1 := 0x0800#16 })).map
        (fun t => (t.failCnt, t.mode, t.trace)) =
      some (1, .polling, [.key (referenceConfig.table1[11]).key true .fail, .log .emit]) := by decide

/-- L2.6 row 7: the write-failure limit. -/
theorem test_emk_limit :
    (after (exec (.emk .pad0 5#4)
      { pollingUnder (limited 2) 5#12 (answers [] [.fail] []) with failCnt := 1 })).map
        (fun t => (t.failCnt, t.reason, t.exit, t.sinkOpen, t.upc)) =
      some (2, .emitLimit, some 1, true, 5#12) := by decide

/-- L2.6 row 5: a success clears FAILCNT. -/
theorem test_sync :
    (after (exec .sync { polling 5#12 (answers [] [.ok] []) with failCnt := 3 })).map
        (fun t => (t.failCnt, t.trace)) = some (0, [.sync .ok]) := by decide

/-- L2.8 row 2: the clean exit. -/
theorem test_chkc :
    (after (exec .chkc (polling 99#12 (answers [] [] [true])))).map
        (fun t => (t.sinkOpen, t.reason, t.exit, t.upc, t.trace)) =
      some (false, .cancel, some 0, 99#12, [.cancel true, .close, .exit 0]) := by decide

/-- L2.8 row 3: no cancellation input. -/
theorem test_chkc_absent :
    (after (exec .chkc (pollingUnder { referenceConfig with cancelPresent := false } 99#12
      (answers [] [] [true])))).map (fun t => (t.upc, t.trace)) = some (100#12, []) := by decide

/-- L2.8 row 4. -/
theorem test_wait :
    (after (exec .wait (polling 100#12 (answers [] [] [])))).map (fun t => (t.upc, t.trace)) =
      some (101#12, [.delay referenceConfig.cycleDelay]) := by decide

/-- L2.8 rows 6 and 7: the jump itself goes through; its target faults at the next fetch. -/
theorem test_jmp :
    (after (exec (.jmp 4095#12) plain)).map State.upc = some 4095#12 ∧
    (after (exec (.jmp 5#12) plain)).map State.upc = some 5#12 := by decide

/-- L2.9: the micro-op at 4095 is executed and traced, then the model faults. -/
theorem test_last_address :
    (match exec .sync (polling 4095#12 (answers [] [.ok] [])) with
      | .fault (.pc t) => decide (t.trace = [.sync .ok] ∧ t.upc = 4095#12 ∧ t.mode = .polling)
      | _ => false) = true := by decide

/-- L2.9 and P6: a micro-op other than INIT, placed first after reset, faults F_MODE. -/
theorem test_placed_first :
    faultOf (step (State.reset.withFetchWord 16 0x2101)) = some .mode ∧
    faultOf (step (fresh.withFetchWord 16 0x0000)) = some (.illegal .reservedOp) ∧
    (after (step (fresh.withFetchWord 16 0x1000))).map State.mode = some .polling := by decide

/-- A word placed where a polling machine fetches next runs. -/
theorem test_placed_polling :
    (after (step (plain.withFetchWord 16 0x2101))).map State.stbQ = some .high ∧
    (after (step ((polling 200#12 (answers [] [] [])).withFetchWord 16 0x8003))).map State.upc =
      some 3#12 := by decide

/-- L2.10: a kill before the first step. -/
theorem test_kill :
    (after (step { fresh with env := { fresh.env with kill := some 0 } })).map
        (fun t => (t.mode, t.reason, t.sinkOpen, t.trace)) =
      some (.terminated, .kill, false, [.killed]) := by decide

/-- R56: a polling machine with its pins configured and its sink open. -/
theorem test_status : plain.status = 0x000D#16 ∧ fresh.status = 0x0000#16 ∧ ended.status = 0x0112#16 := by decide

/-! ## Mapper: L2.5 -/

theorem test_pressed :
    pressed 0x0001#16 0x003#16 = false ∧ pressed 0x0003#16 0x003#16 = true ∧
    pressed 0x0FFF#16 0x1000#16 = false ∧ pressed 0x0FFE#16 0xFFF#16 = false ∧
    pressed 0x0289#16 0x281#16 = true ∧ pressed 0x0289#16 0x282#16 = false := by decide

theorem test_map :
    (mapMask 0x0289#16 referenceConfig.table0).map Prod.snd =
      [true, false, false, true, false, false, false, true, false, true, false, false] := by decide

/-- The value of R125 on the seventh row of L2.3's whole decodes. -/
theorem test_assembled :
    assembledMask (fun k =>
      [Level.low, .high, .high, .low, .high, .high, .high, .low, .high, .low, .high, .high].getD k .high) =
      0x0289#16 := by decide

/-! ## Keys of any type: R14, L1.6 -/

/-- The reference configuration with texts for keys, "Z" first. -/
def textKeys : KeyedConfig String where
  settings := referenceConfig
  keys0 := #v["Z", "a1", "a2", "a3", "a4", "a5", "a6", "a7", "a8", "a9", "a10", "a11"]
  keys1 := #v["b0", "b1", "b2", "b3", "b4", "b5", "b6", "b7", "b8", "b9", "b10", "b11"]

/-- Polling at address 5 with keys of type K. -/
def keyedPolling {K : Type} [DecidableEq K] (c : KeyedConfig K) (e : Env) : KeyedState K :=
  ⟨c, pollingUnder c.coded 5#12 e⟩

/-- L1.6: button B of pad 0 is the key "Z". -/
theorem test_text_key :
    (match KeyedState.exec (.emk .pad0 0#4)
        ⟨textKeys, { (keyedPolling textKeys (answers [] [.ok] [])).block with mask0 := 0x0001#16 }⟩ with
      | .next t => decide (t.trace = [.key "Z" true .ok])
      | _ => false) = true := by decide

/-- R22(c) on keys of another type: "Z" in both tables is refused. -/
theorem test_text_keys_disjoint :
    textKeys.coded.accepted = true ∧
    { textKeys with keys1 := textKeys.keys1.set 4 "Z" }.coded.accepted = false := by decide

/-! ## Assembler text: R108 -/

theorem test_assembler :
    assembleText false .perPad ["here: SMP 1, 11 ; text", "", "JMP here"] = some [0x310B#16, 0x8000#16] ∧
    assembleText false .perPad ["SMP 0, 12"] = none ∧
    Instr.asmText (.smp .pad1 11#4) = "SMP 1, 11" := by decide

/-- Where R108 is silent (log entry 19): the first of two equal labels, a blank after the colon,
and an indented label. -/
theorem test_assembler_choices :
    assembleText false .perPad ["a: SYNC", "a: WAIT", "JMP a"] = some [0x5000#16, 0x7000#16, 0x8000#16] ∧
    assembleText false .perPad ["a:SYNC"] = none ∧
    assembleText false .perPad ["  a: STBH", "JMP a"] = some [0x2101#16, 0x8000#16] := by decide

/-! ## Witnesses: states and operands that meet the hypotheses of the obligations -/

theorem accepted_reference : referenceConfig.accepted = true := by decide

/-- A cycle's answers: every button level HIGH but the first, every write OK, no cancellation. -/
def cycleAnswers : Env := answers [.low, .high] (List.replicate 48 .ok) [false]

/-- DecodeOfEncodeIsTheInstruction, DecodedWordReencodesToItself. -/
theorem witness_encoding :
    (Instr.smp .pad1 11#4).wf = true ∧ decode 0x310B#16 = .ok (.smp .pad1 11#4) ∧
    (Instr.jmp 4095#12).wf = true ∧ decode 0x8FFF#16 = .ok (.jmp 4095#12) := by decide

/-- IllegalWordsAreRefusedAndOthersHaveOneRow: the first illegal index 12, at the address fetched next; and the
last legal one. -/
theorem witness_illegal_word :
    (0x300C#16).toNat / 4096 = 3 ∧ 12 ≤ (0x300C#16).toNat % 16 ∧
    Ready (fresh.withFetchWord 16 0x300C) ∧
    (fresh.withFetchWord 16 0x300C).cfg.rom[(0#12).toNat]? = some 0x300C#16 ∧
    (0x300B#16).toNat / 512 % 8 = 0 ∧ (0x300B#16).toNat / 16 % 16 = 0 ∧ (0x300B#16).toNat % 16 < 12 := by
  unfold Ready
  decide

/-- IllFormedConfigurationIsRefused. -/
theorem witness_ill_formed :
    { referenceConfig with pinStb := 0 }.wf = false ∧
    (pollingUnder { referenceConfig with pinStb := 0 } 5#12 (answers [] [] [])).cfg =
      { referenceConfig with pinStb := 0 } := by
  exact ⟨by decide, rfl⟩

/-- StepRunsTheDecodedInstruction, without and with a kill laid down for a later boundary. -/
theorem witness_step_runs :
    Ready fresh ∧ fresh.cfg.rom[fresh.upc.toNat]? = some 0x1000#16 ∧ decode 0x1000#16 = .ok .init ∧
    fresh.env.kill = none ∧ Ready { fresh with env := { fresh.env with kill := some 1 } } := by
  unfold Ready
  decide

/-- StepFaultsExactlyWhereTheRuleSays: each of the four faults; F_PC at the first address without a word. -/
theorem witness_faults :
    faultOf (step (pollingUnder (limited 0) 5#12 (answers [] [] []))) = some .config ∧
    faultOf (step (plain.withFetchWord 16 0x1000)) = some .mode ∧
    faultOf (step (plain.withFetchWord 16 0x9000)) = some (.illegal .reservedOp) ∧
    (Ready (polling 102#12 (answers [] [] [])) ∧
      (polling 102#12 (answers [] [] [])).cfg.rom.length ≤ (102#12).toNat) := by
  refine ⟨by decide, by decide, by decide, ?_⟩
  unfold Ready
  decide

/-- A ROM of 4096 words whose last is w. -/
def fullRom (w : Word) : Config := { referenceConfig with rom := List.replicate 4095 0x5000#16 ++ [w] }

/-- The same: F_PC at the last address, by STBH there; and a JMP there, which goes on. -/
theorem witness_fault_last :
    (∃ stopped, exec .stbh (pollingUnder (fullRom 0x2101#16) 4095#12 (answers [] [] [])) = .fault (.pc stopped) ∧
      exec .stbh (pollingUnder (fullRom 0x2101#16) 0#12 (answers [] [] [])) = .next { stopped with upc := 1#12 } ∧
      stopped.upc = 4095#12 ∧ stopped.mode ≠ .terminated) ∧
    (fullRom 0x2101#16).rom[(4095#12).toNat]? = some 0x2101#16 ∧ (fullRom 0x2101#16).rom.length = 4096 ∧
    ∃ t, exec (.jmp 1#12) (pollingUnder (fullRom 0x8001#16) 4095#12 (answers [] [] [])) = .next t :=
  ⟨⟨_, rfl, rfl, rfl, by decide⟩, by simp [fullRom], by simp [fullRom], ⟨_, rfl⟩⟩

/-- UpcAdvancesHoldsOrJumps: a jump, a micro-op that ends the run, one that goes on, one at 4095. -/
theorem witness_upc :
    (after (exec (.jmp 7#12) plain)).isSome = true ∧
    (after (exec .chkc (polling 99#12 (answers [] [] [true])))).map State.mode = some .terminated ∧
    (after (exec .wait plain)).map State.mode = some .polling ∧
    (Instr.chkc.wf = true ∧ (polling 4095#12 (answers [] [] [true])).mode = modeOf .chkc ∧
      (polling 4095#12 (answers [] [] [true])).upc.toNat + 1 = 4096) := by decide

/-- TerminatedIsFinal. -/
theorem witness_ended : ended.mode = .terminated := by decide

/-- KillEndsTheRunAtTheBoundary. -/
theorem witness_kill :
    let s := { plain with env := { plain.env with kill := some 0 } }
    s.cfg.accepted = true ∧ s.mode ≠ .terminated ∧ s.env.kill = some 0 := by decide

/-- ClockMicroOpsWriteTheClockLine, StrobeMicroOpsWriteTheStrobeLine, WaitAppendsTheCycleDelay: both clauses, at
the last address that goes on. -/
theorem witness_pin_write :
    (polling 4094#12 (answers [] [] [])).mode = .polling ∧
    (polling 4094#12 (answers [] [] [])).upc ≠ 4095#12 ∧ fresh.mode ≠ .polling := by decide

/-- OutputLinesFollowTheirRegisters: a line that is driven, and one that is not yet. -/
theorem witness_lines :
    plain.mode ≠ .terminated ∧ plain.pinMode .clk = .output ∧ plain.pinMode .stb = .output ∧
    fresh.pinMode .clk ≠ .output ∧ fresh.pinMode .stb ≠ .output := by decide

/-- SampleStoresTheInvertedLevel: the polling clause, the F_MODE clause and the F_ILLEGAL clause at 12. -/
theorem witness_sample :
    plain.mode = .polling ∧ plain.upc ≠ 4095#12 ∧ fresh.mode ≠ .polling ∧ 12 ≤ (12#4).toNat := by decide

/-- DecodeAssemblesTheMask, DecodeAppendsItsPinTrace: the last address from which a decode still fits. -/
theorem witness_decode :
    let s := polling 4057#12 (answers [.low] [] [])
    s.mode = .polling ∧ s.upc.toNat + decodeLength true ≤ 4095 ∧ maskClean (s.mask .pad1) := by
  exact ⟨rfl, by decide, (by decide : (0x0000#16).extractLsb' 12 4 = 0#4)⟩

/-- DecodedMaskDependsOnItsOwnLineOnly: two states that differ in the mask and in the address. -/
theorem witness_two_decodes :
    let s := polling 1#12 (answers [.low] [] [])
    let s' := { polling 9#12 (answers [.low] [] []) with mask0 := 0x0FFF#16 }
    maskClean (s.mask .pad0) ∧ maskClean (s'.mask .pad0) ∧ (∀ k, k < 12 → s.levels .pad0 k = s'.levels .pad0 k) ∧
      (∃ t, execAll (decodeOps false .pad0) s = .next t) ∧ ∃ t', execAll (decodeOps true .pad0) s' = .next t' := by
  refine ⟨(by decide : (0x0000#16).extractLsb' 12 4 = 0#4), (by decide : (0x0FFF#16).extractLsb' 12 4 = 0#4),
    fun _ _ => rfl, next_of_after ?_, next_of_after ?_⟩ <;> decide

/-- PressedTestsTheWholeSelector: its last premise, at bit 12 and at bit 15. -/
theorem witness_selector :
    maskClean 0x0FFF#16 ∧ (0x1000#16).getLsbD 12 = true ∧ (0x8001#16).getLsbD 15 = true := by
  exact ⟨(by decide : (0x0FFF#16).extractLsb' 12 4 = 0#4), by decide, by decide⟩

/-- EmkEmitsItsKeyAndHandlesTheResult, SyncEmitsAMarkerAndHandlesTheResult: a success. -/
theorem witness_emit_ok :
    let s := polling 4094#12 (answers [] [.ok] [])
    s.mode = .polling ∧ s.nextEmit = .ok ∧ s.upc ≠ 4095#12 := by decide

/-- The same: a failure with no limit, one short of a limit, and at it. -/
theorem witness_emit_fails :
    (let s := polling 5#12 (answers [] [.fail] [])
     s.mode = .polling ∧ s.nextEmit = .fail ∧ s.upc ≠ 4095#12 ∧ s.cfg.failLimit = none) ∧
    (let s := { pollingUnder (limited 3) 5#12 (answers [] [.fail] []) with failCnt := 1 }
     s.mode = .polling ∧ s.nextEmit = .fail ∧ s.upc ≠ 4095#12 ∧
       ∀ limit, s.cfg.failLimit = some limit → s.failCnt + 1 < limit) ∧
    (let s := { pollingUnder (limited 3) 4095#12 (answers [] [.fail] []) with failCnt := 2 }
     s.mode = .polling ∧ s.nextEmit = .fail ∧
       ∃ limit, s.cfg.failLimit = some limit ∧ limit ≤ s.failCnt + 1) := by
  refine ⟨by decide, ⟨rfl, rfl, by decide, ?_⟩, rfl, rfl, 3, rfl, by decide⟩
  intro limit h
  cases h
  decide

/-- The same: the F_MODE and F_ILLEGAL clauses. -/
theorem witness_emit_faults : ended.mode ≠ .polling ∧ 12 ≤ (12#4).toNat ∧ 12 ≤ (15#4).toNat := by decide

/-- FailedWriteIsLoggedAndExecutionContinues: one failure short of the limit. -/
theorem witness_failed_write :
    let s := { pollingUnder (limited 3) 4094#12 (answers [] [.fail] []) with failCnt := 1 }
    s.mode = .polling ∧ s.upc ≠ 4095#12 ∧ s.nextEmit = .fail ∧
      ∀ limit, s.cfg.failLimit = some limit → s.failCnt + 1 < limit := by
  refine ⟨rfl, by decide, rfl, ?_⟩
  intro limit h
  cases h
  decide

/-- EmitPadAppendsTheMapAndItsMarkers: both placements, at the last address from which they fit. -/
theorem witness_emit_pad :
    (let s := polling 4082#12 cycleAnswers
     s.mode = .polling ∧ s.upc.toNat + emitPadLength .perPad ≤ 4095 ∧
       ∀ k, k < emitPadLength .perPad → s.env.emit.answer Config.freeEmit k = .ok) ∧
    (let s := polling 4071#12 cycleAnswers
     s.mode = .polling ∧ s.upc.toNat + emitPadLength .perKey ≤ 4095 ∧
       ∀ k, k < emitPadLength .perKey → s.env.emit.answer Config.freeEmit k = .ok) := by decide

/-- KeyTypeIsAParameter: its EMK clause, with keys that are texts, and its step clause. -/
theorem witness_keyed :
    (let s := keyedPolling textKeys (answers [] [.ok] [])
     s.keyed = textKeys ∧ s.block.cfg = textKeys.coded ∧ s.block.mode = .polling ∧ s.block.upc ≠ 4095#12 ∧
       s.block.nextEmit = .ok) ∧
    ∃ t, (keyedPolling textKeys (answers [.low] [] [])).step = .next t := by
  refine ⟨⟨rfl, rfl, rfl, by decide, rfl⟩, ?_⟩
  obtain ⟨t, h⟩ := next_of_after
    (show (after (step (keyedPolling textKeys (answers [.low] [] [])).block)).isSome = true by decide)
  exact ⟨⟨textKeys, t⟩, by rw [KeyedState.step, h]; rfl⟩

/-- KeysAreCarriedNotInspected: a next state, and the fault at the last address. -/
theorem witness_renaming :
    (∃ t, exec (.emk .pad0 0#4) (polling 5#12 cycleAnswers) = .next t) ∧
    (∃ t, exec (.emk .pad0 0#4) (polling 4095#12 cycleAnswers) = .fault (.pc t)) :=
  ⟨next_of_after (by decide), _, rfl⟩

/-- InitConfiguresOrFails: its four clauses. -/
theorem witness_init :
    (fresh.mode = .initializing ∧ fresh.nextGpio = .ok ∧ fresh.nextSink = .ok ∧ fresh.upc ≠ 4095#12) ∧
    (let s := { fresh with env := { fresh.env with gpio := ⟨[.fail], 0⟩ } }
     s.mode = .initializing ∧ s.nextGpio = .fail) ∧
    (let s := { fresh with env := { fresh.env with sink := ⟨[.fail], 0⟩ } }
     s.mode = .initializing ∧ s.nextGpio = .ok ∧ s.nextSink = .fail) ∧
    plain.mode ≠ .initializing := by decide

/-- ChkcSamplesTheCancelInput: its four clauses. -/
theorem witness_chkc :
    (let s := pollingUnder { referenceConfig with cancelPresent := false } 4094#12 (answers [] [] [])
     s.mode = .polling ∧ s.cfg.cancelPresent = false ∧ s.upc ≠ 4095#12) ∧
    (let s := polling 99#12 (answers [] [] [false])
     s.mode = .polling ∧ s.cfg.cancelPresent = true ∧ s.nextCancel = false ∧ s.upc ≠ 4095#12) ∧
    (let s := polling 4095#12 (answers [] [] [true])
     s.mode = .polling ∧ s.cfg.cancelPresent = true ∧ s.nextCancel = true) ∧
    fresh.mode ≠ .polling := by decide

/-- JmpSetsUpcToItsTarget: its clauses, at the first address without a word. -/
theorem witness_jmp :
    plain.mode = .polling ∧ plain.cfg.accepted = true ∧ plain.env.kill = none ∧
    plain.cfg.rom.length ≤ (102#12).toNat ∧ fresh.mode ≠ .polling := by decide

/-- FatalEntryEndsTheRun: the end of a run at the write-failure limit; witness_init and witness_emit_fails meet its
other clauses. -/
theorem witness_fatal :
    ∃ t, exec .sync { pollingUnder (limited 3) 4095#12 (answers [] [.fail] []) with failCnt := 2 } = .next t ∧
      t.mode = .terminated ∧ t.reason ≠ .cancel := ⟨_, rfl, by decide, by decide⟩

/-- PinWritesChangeNothingElse, EmissionChangesNothingElse, EveryFieldHasItsOwnWriters: a next state of each
kind, the emission with the run going on and with its end. -/
theorem witness_next :
    (∃ t, exec .clkh plain = .next t) ∧ (∃ t, exec .clkl plain = .next t) ∧ (∃ t, exec .stbh plain = .next t) ∧
    (∃ t, exec .stbl plain = .next t) ∧ (∃ t, exec .sync (polling 5#12 cycleAnswers) = .next t) ∧
    (∃ t, exec (.emk .pad0 0#4) (pollingUnder (limited 1) 5#12 (answers [] [.fail] [])) = .next t) := by
  refine ⟨next_of_after ?_, next_of_after ?_, next_of_after ?_, next_of_after ?_, next_of_after ?_,
    next_of_after ?_⟩ <;> decide

/-- TraceIsAppendOnly, ConfigurationIsImmutable, MaskHighBitsStayZero, FailCntCountsConsecutiveFailures: a step,
from a state whose masks are clean and whose FAILCNT is its trace's. -/
theorem witness_step :
    (∃ t, step fresh = .next t) ∧ (∀ p, maskClean (fresh.mask p)) ∧ fresh.failCnt = failureStreak fresh.trace ∧
    fresh.cfg.failLimit = none := by
  refine ⟨next_of_after (by decide), fun p => ?_, by decide, rfl⟩
  cases p <;> exact (by decide : (0x0000#16).extractLsb' 12 4 = 0#4)

/-- PinModesAreWrittenByInitOnly, ModesChangeOnlyAsTheTableSays: a step that changes a pin mode and the mode. -/
theorem witness_mode_change :
    (∃ t, step fresh = .next t ∧ t.pinMode .clk ≠ fresh.pinMode .clk ∧ t.mode ≠ fresh.mode) ∧
    (∃ t, exec .init fresh = .next t) ∧ fresh.nextGpio = .ok :=
  ⟨⟨_, rfl, by decide, by decide⟩, ⟨_, rfl⟩, rfl⟩

/-- ModesChangeOnlyAsTheTableSays: a micro-op in each of the two modes, POLLING at the last address that goes on. -/
theorem witness_mode_executes :
    (Instr.init.wf = true ∧ fresh.mode = .initializing ∧ fresh.upc ≠ 4095#12) ∧
    (let s := polling 4094#12 (answers [] [] [])
     (Instr.smp .pad1 11#4).wf = true ∧ s.mode = .polling ∧ Instr.smp .pad1 11#4 ≠ .init ∧ s.upc ≠ 4095#12) := by
  decide

/-- EveryStepKeepsTheInvariant: a polling state that meets it, and its step. -/
theorem witness_invariant : Inv (polling 1#12 cycleAnswers) ∧ ∃ t, step (polling 1#12 cycleAnswers) = .next t := by
  refine ⟨⟨?_, ?_, ?_, ?_, rfl, ?_, ⟨?_, ?_⟩, ?_⟩, next_of_after (by decide)⟩
  · intro h
    cases h
  · decide
  · decide
  · decide
  · decide
  · exact (by decide : (0x0000#16).extractLsb' 12 4 = 0#4)
  · exact (by decide : (0x0000#16).extractLsb' 12 4 = 0#4)
  · intro h
    cases h

/-- SteppingThroughRomExecutesTheListing: the strobe pulse at address 1. -/
theorem witness_listing :
    let s := polling 1#12 cycleAnswers
    s.cfg.accepted = true ∧ s.env.kill = none ∧ s.mode ≠ .terminated ∧
      (∀ i ∈ pulseStb, i.wf = true ∧ ∀ a, i ≠ .jmp a) ∧
      (∀ k, k < pulseStb.length → s.cfg.rom[s.upc.toNat + k]? = (pulseStb.map encode)[k]?) ∧
      ∃ t, execAll pulseStb s = .next t ∧ t.mode ≠ .terminated := by
  refine ⟨by decide, rfl, by decide, ?_, by decide, _, rfl, by decide⟩
  intro i hi
  simp only [pulseStb, List.mem_cons, List.not_mem_nil, or_false] at hi
  rcases hi with rfl | rfl <;> exact ⟨rfl, fun _ h => by cases h⟩

/-- ReferenceProgramNeverFaults: reset, and the first and the last address in POLLING. -/
theorem witness_reference :
    RunsReference fresh ∧ RunsReference (polling 1#12 cycleAnswers) ∧ RunsReference (polling 101#12 cycleAnswers) := by
  unfold RunsReference
  decide

/-- ReferenceProgramPollsForever. -/
theorem witness_polls_forever :
    let s := pollingUnder { referenceConfig with cancelPresent := false } 101#12 (answers [] [] [])
    RunsReference s ∧ s.mode = .polling ∧ s.cfg.cancelPresent = false ∧ s.cfg.failLimit = none ∧
      s.env.kill = none := by
  unfold RunsReference
  decide

/-- PollCycleAppendsItsEventsInOrder. -/
theorem witness_poll_cycle :
    let s := polling 1#12 cycleAnswers
    RunsReference s ∧ s.mode = .polling ∧ s.upc = 1#12 ∧ s.env.kill = none ∧ maskClean s.mask0 ∧
      maskClean s.mask1 ∧
      (∀ k, k < 2 * emitPadLength s.cfg.syncMode → s.env.emit.answer Config.freeEmit k = .ok) ∧
      (s.cfg.cancelPresent = true → s.nextCancel = false) := by
  refine ⟨witness_reference.2.1, rfl, rfl, rfl, (by decide : (0x0000#16).extractLsb' 12 4 = 0#4),
    (by decide : (0x0000#16).extractLsb' 12 4 = 0#4), by decide, fun _ => rfl⟩

/-- DelayStandsBetweenConsecutiveCycles: a state at the closing jump, whose trace ends with the delay, and its step. -/
theorem witness_boundary :
    let s := { polling 101#12 cycleAnswers with trace := [.delay referenceConfig.cycleDelay] }
    RunsReference s ∧
      (s.mode = .polling → s.upc = 1#12 →
        s.trace.getLast? = some (.delay s.cfg.cycleDelay) ∨ s.trace.getLast? = some (.sinkInit .ok)) ∧
      (s.mode = .polling → s.upc.toNat = s.cfg.rom.length - 1 →
        s.trace.getLast? = some (.delay s.cfg.cycleDelay)) ∧
      ∃ t, step s = .next t := by
  refine ⟨witness_reference.2.2, ?_, fun _ _ => rfl, next_of_after (by decide)⟩
  intro _ h
  exact absurd h (by decide)

/-- WordsBehindTheReferenceProgramDoNotShow: as many words as fit, and a configuration it speaks of. -/
theorem witness_conformance :
    (List.replicate 3968 (0x0000#16 : Word)).length ≤ 3968 ∧ referenceConfig.accepted = true ∧
    referenceConfig.rom = refRom referenceConfig.trailingClock referenceConfig.syncMode := by
  exact ⟨by simp, accepted_reference, rfl⟩

/-- DecodeOnTheBenchReadsTheButtons: pads at any position, with any buttons. -/
theorem witness_bench :
    let b : Bench := ⟨polling 4057#12 (answers [] [] []), ⟨0xA53#12, 0x123#12, 7, .high, .low⟩,
      ⟨0x5AC#12, 0x003#12, 14, .low, .low⟩, ⟨.falling, .low⟩⟩
    b.core.mode = .polling ∧ b.core.cfg.accepted = true ∧ b.core.upc.toNat + decodeLength true ≤ 4095 ∧
      maskClean (b.core.mask .pad1) ∧ (b.pad .pad1).clk = .low := by
  exact ⟨rfl, accepted_reference, by decide, (by decide : (0x0000#16).extractLsb' 12 4 = 0#4), rfl⟩

end Sys2Proof.Tests
end

section
/-! What a well-formed configuration is (00_scope.md R22), field by field, and its refusal by boot and by every
step. -/

namespace Sys2Proof

/-- What holds of every element of a vector holds at every index, and conversely. -/
theorem forall_mem_toList_iff {α : Type} {n : Nat} (v : Vector α n) (P : α → Prop) :
    (∀ x ∈ v.toList, P x) ↔ ∀ j : Fin n, P v[j] := by
  simp only [Vector.mem_toList_iff, Vector.forall_mem_iff_forall_getElem, Fin.forall_iff]
  rfl

/-- R22(a). -/
theorem pinsDistinct_iff (c : Config) :
    c.pinsDistinct = true ↔ [c.pinClk, c.pinStb, c.pinData0, c.pinData1].Nodup := by
  simp [Config.pinsDistinct, and_assoc]

/-- R22(b). -/
theorem selectorsNonzero_iff (c : Config) :
    c.selectorsNonzero = true ↔ ∀ p, ∀ j : Fin 12, (c.table p)[j].sel ≠ 0#16 := by
  simp only [Config.selectorsNonzero, List.all_append, Bool.and_eq_true, List.all_eq_true, bne_iff_ne,
    forall_mem_toList_iff]
  constructor
  · rintro ⟨h0, h1⟩ p
    cases p with
    | pad0 => exact h0
    | pad1 => exact h1
  · exact fun h => ⟨h .pad0, h .pad1⟩

/-- R22(c). -/
theorem keysDisjoint_iff (c : Config) :
    c.keysDisjoint = true ↔ ∀ j k : Fin 12, (c.table .pad0)[j].key ≠ (c.table .pad1)[k].key := by
  simp only [Config.keysDisjoint, List.all_eq_true, bne_iff_ne, forall_mem_toList_iff]
  rfl

/-- R22(d). -/
theorem romSizeOk_iff (c : Config) : c.romSizeOk = true ↔ 1 ≤ c.rom.length ∧ c.rom.length ≤ 4096 := by
  simp [Config.romSizeOk]

theorem wf_iff (c : Config) :
    c.wf = true ↔ c.pinsDistinct = true ∧ c.selectorsNonzero = true ∧ c.keysDisjoint = true ∧
      c.romSizeOk = true := by
  simp [Config.wf, and_assoc]

theorem not_accepted_of_not_wf {c : Config} (h : c.wf = false) : c.accepted = false := by
  simp [Config.accepted, h]

namespace Machine

theorem boot_refused_config {c : Config} (h : c.accepted = false) (e : Env) : boot c e = .fault .config := by
  simp [boot, h]

/-- Settles O6: each test of wf is its part of R22, and boot and step both ask for an accepted configuration. -/
theorem illFormedConfigurationIsRefused : Obligations.IllFormedConfigurationIsRefused := by
  intro c
  constructor
  · rw [wf_iff, pinsDistinct_iff, selectorsNonzero_iff, keysDisjoint_iff, romSizeOk_iff]
  · intro hwf
    have hc : c.accepted = false := not_accepted_of_not_wf hwf
    refine ⟨boot_refused_config hc, ?_⟩
    rintro s rfl
    exact step_refused_config hc

end Machine
end Sys2Proof
end

section
/-! Keys of any type (00_scope.md R14): numbers tell keys apart, an EMK traces the key event of its entry, and no
micro-op writes the configuration. -/

namespace Sys2Proof.Machine

/-! ## Numbers of keys -/

section
variable {K : Type} [DecidableEq K]

/-- Two keys of the tables share a number only if they are equal. -/
theorem code_inj (c : KeyedConfig K) {a b : K} (ha : a ∈ c.allKeys) (hb : b ∈ c.allKeys) :
    c.code a = c.code b ↔ a = b := by
  refine ⟨fun h => ?_, congrArg c.code⟩
  have hab : some a = some b := by rw [← keyOf_code c ha, h, keyOf_code c hb]
  exact Option.some.inj hab

theorem keysDisjoint_coded_iff (c : KeyedConfig K) :
    c.coded.keysDisjoint = true ↔ ∀ j k : Fin 12, c.keys0[j] ≠ c.keys1[k] := by
  simp only [keysDisjoint_iff, coded_table, ne_eq, code_inj c (mem_allKeys c .pad0 _) (mem_allKeys c .pad1 _)]
  rfl

theorem keyOf_coded_table (c : KeyedConfig K) (p : Pad) (j : Fin 12) :
    c.keyOf (c.coded.table p)[j].key = some (c.keys p)[j] := by
  rw [coded_table, keyOf_code c (mem_allKeys c p j)]

/-- The key event of entry j under the configuration that runs is read with the entry's key of K (R144). -/
theorem event_keyEvent_coded (c : KeyedConfig K) {s : State} (hs : s.cfg = c.coded) (p : Pad) (j : Fin 12)
    (r : Ack) :
    c.event ((keyEvent p j s).traced r) =
      .key (c.keys p)[j] (pressed (s.mask p) (c.settings.table p)[j].sel) r := by
  have hk := keyOf_coded_table c p j
  rw [coded_table] at hk
  simp only [keyEvent, tableRead, hs, coded_table, SinkEvent.traced, KeyedConfig.event, hk]

end

/-! ## What an emission traces -/

/-- An emission traces its event with the result first, and nothing more when the write succeeds (R144 to R146). -/
theorem emitAndCheck_trace (ev : SinkEvent) (s : State) :
    ∃ rest, (emitAndCheck ev s).trace = s.trace ++ ev.traced s.nextEmit :: rest ∧
      (s.nextEmit = .ok → rest = []) := by
  rcases emitAndCheck_cases ev s with ⟨hr, he⟩ | ⟨hr, _, he⟩ | ⟨hr, _, he⟩
  · exact ⟨[], by rw [he, hr], fun _ => rfl⟩
  · exact ⟨_, by rw [he, hr], fun h => by simp [hr] at h⟩
  · exact ⟨_, by rw [he, hr], fun h => by simp [hr] at h⟩

@[simp] theorem advance_trace (t : State) : (advance t).trace = t.trace := by
  by_cases h : t.mode = .terminated <;> simp [advance, h]

theorem complete_not_last {s : State} (h : s.upc ≠ 4095#12) (t : State) : complete s t = .next (advance t) := if_neg h

/-- EMK in POLLING below the last address: the key event of its entry, and then the advance (R144, R115). -/
theorem exec_emk {s : State} (hm : s.mode = .polling) (hu : s.upc ≠ 4095#12) (p : Pad) (j : Fin 12) :
    exec (.emk p (BitVec.ofNat 4 j.val)) s = .next (advance (emitAndCheck (keyEvent p j s) s)) := by
  rw [exec, execEmk, withIndex_ofNat, inMode_of_eq hm, complete_not_last hu]

/-! ## The configuration is kept -/

theorem exec_keeps_cfg {i : Instr} {s t : State} (h : exec i s = .next t) : t.cfg = s.cfg := by
  have hcfg : (effect i s).cfg = s.cfg := (effect_keeps i s).1
  obtain ⟨_, _, ⟨a, _, rfl⟩ | ⟨_, _, rfl⟩ | ⟨_, _, _, rfl⟩⟩ := exec_eq_next h
  · rfl
  · exact hcfg
  · exact hcfg

theorem step_keeps_cfg {s t : State} (h : step s = .next t) : t.cfg = s.cfg := by
  obtain ⟨_, _, ⟨_, rfl⟩ | ⟨_, w, i, _, _, hx⟩⟩ := step_eq_next h
  · rw [hostKill_eq]
  · rw [exec_keeps_cfg hx, passBoundary_eq]

/-- A lifted answer is a next state when the answer is, and it carries the same configuration over K. -/
theorem lift_eq_next {K : Type} {c : KeyedConfig K} {a : Answer} {t : KeyedState K} :
    c.lift a = .next t ↔ t.keyed = c ∧ a = .next t.block := by
  obtain ⟨keyed, block⟩ := t
  cases a <;> simp [eq_comm]

/-- Settles O27: numbers stand for keys and tell them apart, EMK traces the key its number stands for, and no step
writes the configuration. -/
theorem keyTypeIsAParameter : Obligations.KeyTypeIsAParameter := by
  intro K _ c
  refine ⟨fun p j => ⟨?_, keyOf_coded_table c p j⟩, keysDisjoint_coded_iff c, ?_, fun e => ⟨rfl, rfl⟩, ?_⟩
  · rw [coded_table]
  · rintro s p j rfl hcfg hm hu
    obtain ⟨rest, htrace, hrest⟩ := emitAndCheck_trace (keyEvent p j s.block) s.block
    refine ⟨⟨s.keyed, advance (emitAndCheck (keyEvent p j s.block) s.block)⟩, rest.map s.keyed.event, ?_, ?_, ?_⟩
    · rw [KeyedState.exec, exec_emk hm hu, lift_next]
    · simp only [KeyedState.trace, advance_trace, htrace, List.map_append, List.map_cons,
        event_keyEvent_coded s.keyed hcfg, pressed]
    · intro hok
      rw [hrest hok, List.map_nil]
  · rintro s t rfl hcfg hstep
    obtain ⟨hkeyed, hblock⟩ := lift_eq_next.mp hstep
    exact ⟨hkeyed, (step_keeps_cfg hblock).trans hcfg⟩

end Sys2Proof.Machine
end

section
/-! No micro-op inspects a key (00_scope.md R14): each effect commutes with every renaming of the keys, and so does
the answer of each micro-op. -/

namespace Sys2Proof.Machine

section
variable (f : KeyCode → KeyCode)

/-! ## The shared operations under a renaming -/

@[simp] theorem renameKeys_cancelPresent (s : State) : (s.renameKeys f).cfg.cancelPresent = s.cfg.cancelPresent := rfl

/-- Tracing an event that names no key commutes with every renaming. -/
theorem record_renameKeys {e : Event} (he : e.renameKey f = e) (s : State) :
    (s.renameKeys f).record e = (s.record e).renameKeys f := by
  simp [State.record, State.renameKeys, he]

theorem gpioSetup_renameKeys (s : State) :
    gpioSetup (s.renameKeys f) = ((gpioSetup s).1, (gpioSetup s).2.renameKeys f) :=
  Prod.ext rfl (record_renameKeys f (e := .gpioInit s.nextGpio) rfl
    (s.setEnv { s.env with gpio := s.env.gpio.tail }))

theorem sinkOpen_renameKeys (s : State) :
    sinkOpen (s.renameKeys f) = ((sinkOpen s).1, (sinkOpen s).2.renameKeys f) :=
  Prod.ext rfl (record_renameKeys f (e := .sinkInit s.nextSink) rfl
    (s.setEnv { s.env with sink := s.env.sink.tail }))

theorem cancelInput_renameKeys (s : State) :
    cancelInput (s.renameKeys f) = ((cancelInput s).1, (cancelInput s).2.renameKeys f) :=
  Prod.ext rfl (record_renameKeys f (e := .cancel s.nextCancel) rfl
    (s.setEnv { s.env with cancel := s.env.cancel.tail }))

theorem configurePins_renameKeys (s : State) :
    configurePins (s.renameKeys f) = (configurePins s).renameKeys f := by
  simp [configurePins_eq, State.renameKeys, Event.renameKey]

theorem fatal_renameKeys (reason : Reason) (s : State) :
    fatal reason (s.renameKeys f) = (fatal reason s).renameKeys f := by
  simp [fatal_eq, State.renameKeys, Event.renameKey]

theorem cancelExit_renameKeys (s : State) : cancelExit (s.renameKeys f) = (cancelExit s).renameKeys f := by
  simp [cancelExit_eq, State.renameKeys, Event.renameKey]

/-! ## The effects under a renaming -/

/-- INIT (R160), along its two draws. -/
theorem initialise_renameKeys (s : State) : initialise (s.renameKeys f) = (initialise s).renameKeys f := by
  rw [initialise, initialise, gpioSetup_renameKeys]
  obtain ⟨g, s1⟩ := gpioSetup s
  cases g with
  | fail => exact fatal_renameKeys f .gpioInit s1
  | ok =>
    simp only [configurePins_renameKeys, sinkOpen_renameKeys]
    obtain ⟨k, s2⟩ := sinkOpen (configurePins s1)
    cases k with
    | fail => exact fatal_renameKeys f .sinkInit s2
    | ok => rfl

/-- CHKC (R161), along the parameter and the draw. -/
theorem checkCancel_renameKeys (s : State) : checkCancel (s.renameKeys f) = (checkCancel s).renameKeys f := by
  rw [checkCancel, checkCancel, renameKeys_cancelPresent, cancelInput_renameKeys]
  cases s.cfg.cancelPresent with
  | false => rfl
  | true =>
    obtain ⟨c, s1⟩ := cancelInput s
    cases c with
    | false => rfl
    | true => exact cancelExit_renameKeys f s1

/-- SMP (R124). -/
theorem sampleBit_renameKeys (p : Pad) (i : Fin 12) (s : State) :
    sampleBit p i (s.renameKeys f) = (sampleBit p i s).renameKeys f := by
  cases p <;> simp [sampleBit_eq, State.renameKeys, Event.renameKey, State.setMask, State.mask, State.nextLevel,
    Config.pin]

/-- No effect inspects a key: renaming before it is renaming after it. -/
theorem effect_renameKeys (i : Instr) (s : State) : effect i (s.renameKeys f) = (effect i s).renameKeys f := by
  cases i with
  | init => exact initialise_renameKeys f s
  | clkl => exact record_renameKeys f rfl (s.setClkQ .low)
  | clkh => exact record_renameKeys f rfl (s.setClkQ .high)
  | stbl => exact record_renameKeys f rfl (s.setStbQ .low)
  | stbh => exact record_renameKeys f rfl (s.setStbQ .high)
  | smp p n =>
    by_cases h : n.toNat < 12
    · simp only [effect, dif_pos h, sampleBit_renameKeys]
    · simp only [effect, dif_neg h]
  | emk p n =>
    by_cases h : n.toNat < 12
    · simp only [effect, dif_pos h]
      exact emitAndCheck_renameKeys f s (keyEvent_renameKeys f p ⟨n.toNat, h⟩ s)
    · simp only [effect, dif_neg h]
  | sync => exact emitAndCheck_renameKeys f s fun _ => rfl
  | chkc => exact checkCancel_renameKeys f s
  | wait => exact record_renameKeys f rfl s
  | jmp a => rfl

/-! ## The answers under a renaming -/

/-- An answer with the keys of the state it carries renamed. -/
def renameAnswer : Answer → Answer
  | .next t => .next (t.renameKeys f)
  | .fault (.pc t) => .fault (.pc (t.renameKeys f))
  | a => a

theorem renameAnswer_eq_mode (a : Answer) : renameAnswer f a = .fault .mode ↔ a = .fault .mode := by
  cases a with
  | fault r => cases r <;> simp [renameAnswer]
  | next t => simp [renameAnswer]
  | refused r => simp [renameAnswer]

theorem complete_renameKeys (s t : State) :
    complete (s.renameKeys f) (t.renameKeys f) = renameAnswer f (complete s t) := by
  by_cases ht : t.mode = .terminated
  · have ht' : (t.renameKeys f).mode = .terminated := ht
    rw [complete_ended ht, complete_ended ht', renameAnswer]
  · have ht' : (t.renameKeys f).mode ≠ .terminated := ht
    by_cases hu : s.upc = 4095#12
    · have hu' : (s.renameKeys f).upc = 4095#12 := hu
      rw [complete_last hu ht, complete_last hu' ht', renameAnswer]
    · have hu' : (s.renameKeys f).upc ≠ 4095#12 := hu
      rw [complete_running hu ht, complete_running hu' ht']
      rfl

/-- The answer of a micro-op under renamed keys is its answer, renamed. -/
theorem exec_renameKeys (i : Instr) (s : State) : exec i (s.renameKeys f) = renameAnswer f (exec i s) := by
  cases hwf : i.wf with
  | false =>
    rw [exec_of_ill_formed hwf, exec_of_ill_formed hwf]
    rfl
  | true =>
    by_cases hm : s.mode = modeOf i
    · have hm' : (s.renameKeys f).mode = modeOf i := hm
      by_cases hj : ∃ a, i = .jmp a
      · obtain ⟨a, rfl⟩ := hj
        rw [exec_jmp a hm, exec_jmp a hm']
        rfl
      · have hj' : ∀ a, i ≠ .jmp a := fun a ha => hj ⟨a, ha⟩
        rw [exec_of_mode hwf hj' hm, exec_of_mode hwf hj' hm', effect_renameKeys, complete_renameKeys]
    · have hm' : (s.renameKeys f).mode ≠ modeOf i := hm
      rw [exec_of_wrong_mode hwf hm, exec_of_wrong_mode hwf hm']
      rfl

end

/-- Settles O28: the answer under renamed keys is the answer, renamed, for each of its three kinds. -/
theorem keysAreCarriedNotInspected : Obligations.KeysAreCarriedNotInspected := by
  intro f i s
  rw [exec_renameKeys]
  refine ⟨?_, ?_, (renameAnswer_eq_mode f (exec i s)).symm⟩
  · intro t h
    rw [h, renameAnswer]
  · intro t h
    rw [h, renameAnswer]

end Sys2Proof.Machine
end

section
/-! What a next state is, in the form the state's invariants use (10_state.md R40 to R53): a micro-op changes the fields
the rules name for it and no others, and what every effect keeps, every step keeps. -/

namespace Sys2Proof.Machine

/-! ## A next state is an effect, but for upc -/

/-- A next state of a micro-op is its effect, with upc moved. -/
theorem exec_next_effect {i : Instr} {s t : State} (h : exec i s = .next t) :
    s.mode = modeOf i ∧ ∃ a, t = { effect i s with upc := a } := by
  obtain ⟨_, hm, ⟨a, rfl, ht⟩ | ⟨_, _, ht⟩ | ⟨_, _, _, ht⟩⟩ := exec_eq_next h
  · exact ⟨hm, a, ht⟩
  · exact ⟨hm, (effect i s).upc, ht⟩
  · exact ⟨hm, _, ht⟩

/-- A next state of a step comes by a kill, or is the effect of the micro-op at upc with upc moved. -/
theorem step_next_effect {s t : State} (h : step s = .next t) :
    t = hostKill s ∨ ∃ w i a, s.cfg.rom[s.upc.toNat]? = some w ∧ decode w = .ok i ∧ s.mode = modeOf i ∧
      t = { effect i (passBoundary s) with upc := a } := by
  obtain ⟨_, _, ⟨_, hk⟩ | ⟨_, w, i, hw, hd, hx⟩⟩ := step_eq_next h
  · exact .inl hk
  · obtain ⟨hm, a, ht⟩ := exec_next_effect hx
    exact .inr ⟨w, i, a, hw, hd, hm, ht⟩

/-- What a kill, a passed boundary and every effect in its own mode keep, a step keeps. -/
theorem step_keeps {P : State → Prop} (hkill : ∀ s, P s → P (hostKill s)) (hpass : ∀ s, P s → P (passBoundary s))
    (heffect : ∀ i s a, s.mode = modeOf i → P s → P { effect i s with upc := a }) {s t : State} (hs : P s)
    (h : step s = .next t) : P t := by
  rcases step_next_effect h with rfl | ⟨_, i, a, _, _, hm, rfl⟩
  · exact hkill s hs
  · exact heffect i (passBoundary s) a hm (hpass s hs)

/-! ## Each field has its own writers -/

/-- SMP samples one of the bits 0 to 11; with a reserved index, which exec refuses, its effect is none. -/
theorem effect_smp (p : Pad) (n : BitVec 4) (s : State) :
    effect (.smp p n) s = s ∨ ∃ i, effect (.smp p n) s = sampleBit p i s := by
  by_cases h : n.toNat < 12
  · exact .inr ⟨_, dif_pos h⟩
  · exact .inl (dif_neg h)

/-- EMK emits one event; with a reserved index, which exec refuses, its effect is none. -/
theorem effect_emk (p : Pad) (n : BitVec 4) (s : State) :
    effect (.emk p n) s = s ∨ ∃ ev, effect (.emk p n) s = emitAndCheck ev s := by
  by_cases h : n.toNat < 12
  · exact .inr ⟨_, dif_pos h⟩
  · exact .inl (dif_neg h)

/-- From s to t only those fields have changed that the rules let micro-op i write (R43 to R53, R93); of upc
nothing is said. -/
structure OwnFieldsOnly (i : Instr) (s t : State) : Prop where
  cfg : t.cfg = s.cfg
  kill : t.env.kill = s.env.kill
  clkQ : i ≠ .clkh → i ≠ .clkl → t.clkQ = s.clkQ
  stbQ : i ≠ .stbh → i ≠ .stbl → t.stbQ = s.stbQ
  pinMode : i ≠ .init → ∀ role, t.pinMode role = s.pinMode role
  mask : ∀ p, (∀ n, i ≠ .smp p n) → t.mask p = s.mask p ∧ t.env.data p = s.env.data p
  sinkOpen : i ≠ .init → i ≠ .chkc → t.sinkOpen = s.sinkOpen
  failCnt : i ≠ .sync → (∀ p n, i ≠ .emk p n) → t.failCnt = s.failCnt ∧ t.env.emit = s.env.emit
  mode : i ≠ .init → i ≠ .chkc → i ≠ .sync → (∀ p n, i ≠ .emk p n) →
    t.mode = s.mode ∧ t.reason = s.reason ∧ t.exit = s.exit
  setup : i ≠ .init → t.env.gpio = s.env.gpio ∧ t.env.sink = s.env.sink
  cancel : i ≠ .chkc → t.env.cancel = s.env.cancel
  jump : (∃ a, i = .jmp a) → t.trace = s.trace

/-- A micro-op may leave alone what it may write. -/
theorem OwnFieldsOnly.refl (i : Instr) (s : State) : OwnFieldsOnly i s s where
  cfg := rfl
  kill := rfl
  clkQ _ _ := rfl
  stbQ _ _ := rfl
  pinMode _ _ := rfl
  mask _ _ := ⟨rfl, rfl⟩
  sinkOpen _ _ := rfl
  failCnt _ _ := ⟨rfl, rfl⟩
  mode _ _ _ _ := ⟨rfl, rfl, rfl⟩
  setup _ := ⟨rfl, rfl⟩
  cancel _ := rfl
  jump _ := rfl

theorem OwnFieldsOnly.withUpc {i : Instr} {s t : State} (h : OwnFieldsOnly i s t) (a : RomAddr) :
    OwnFieldsOnly i s { t with upc := a } := { h with }

/-- R160. -/
theorem initialise_ownFieldsOnly (s : State) : OwnFieldsOnly .init s (initialise s) := by
  rcases initialise_cases s with ⟨_, h⟩ | ⟨_, _, h⟩ | ⟨_, _, h⟩ <;> rw [h] <;>
  exact { OwnFieldsOnly.refl .init s with
    pinMode := fun hi => absurd rfl hi
    sinkOpen := fun hi => absurd rfl hi
    mode := fun hi => absurd rfl hi
    setup := fun hi => absurd rfl hi
    jump := nofun }

/-- R161. -/
theorem checkCancel_ownFieldsOnly (s : State) : OwnFieldsOnly .chkc s (checkCancel s) := by
  rcases checkCancel_cases s with ⟨_, h⟩ | ⟨_, _, h⟩ | ⟨_, _, h⟩ <;> rw [h] <;>
  exact { OwnFieldsOnly.refl .chkc s with
    sinkOpen := fun _ hi => absurd rfl hi
    mode := fun _ hi => absurd rfl hi
    cancel := fun hi => absurd rfl hi
    jump := nofun }

/-- R144, R145: what holds of both micro-ops that emit. -/
theorem emitAndCheck_ownFieldsOnly {i : Instr} (hi : i = .sync ∨ ∃ p n, i = .emk p n) (ev : SinkEvent) (s : State) :
    OwnFieldsOnly i s (emitAndCheck ev s) := by
  have hne : i ≠ .sync → ¬ ∀ p n, i ≠ .emk p n := fun hs he =>
    hi.elim hs fun ⟨p, n, h⟩ => he p n h
  have hj : ¬ ∃ a, i = .jmp a := by
    rcases hi with rfl | ⟨p, n, rfl⟩ <;> nofun
  rcases emitAndCheck_cases ev s with ⟨_, h⟩ | ⟨_, _, h⟩ | ⟨_, _, h⟩ <;> rw [h] <;>
  exact { OwnFieldsOnly.refl i s with
    failCnt := fun hs he => absurd he (hne hs)
    mode := fun _ _ hs he => absurd he (hne hs)
    jump := fun h => absurd h hj }

/-- R124. -/
theorem sampleBit_ownFieldsOnly (p : Pad) (n : BitVec 4) (i : Fin 12) (s : State) :
    OwnFieldsOnly (.smp p n) s (sampleBit p i s) := by
  have hmask : ∀ q, (∀ m, Instr.smp p n ≠ .smp q m) →
      (sampleBit p i s).mask q = s.mask q ∧ (sampleBit p i s).env.data q = s.env.data q := by
    intro q hq
    have hne : p ≠ q := fun h => hq n (by rw [h])
    rw [sampleBit_eq]
    cases p with
    | pad0 =>
      cases q with
      | pad0 => exact absurd rfl hne
      | pad1 => exact ⟨rfl, rfl⟩
    | pad1 =>
      cases q with
      | pad0 => exact ⟨rfl, rfl⟩
      | pad1 => exact absurd rfl hne
  cases p <;> exact { OwnFieldsOnly.refl _ s with mask := hmask, jump := nofun }

theorem effect_ownFieldsOnly (i : Instr) (s : State) : OwnFieldsOnly i s (effect i s) := by
  cases i with
  | init => exact initialise_ownFieldsOnly s
  | clkl => exact { OwnFieldsOnly.refl .clkl s with clkQ := fun _ h => absurd rfl h, jump := nofun }
  | clkh => exact { OwnFieldsOnly.refl .clkh s with clkQ := fun h => absurd rfl h, jump := nofun }
  | stbl => exact { OwnFieldsOnly.refl .stbl s with stbQ := fun _ h => absurd rfl h, jump := nofun }
  | stbh => exact { OwnFieldsOnly.refl .stbh s with stbQ := fun h => absurd rfl h, jump := nofun }
  | smp p n =>
    rcases effect_smp p n s with h | ⟨i, h⟩ <;> rw [h]
    · exact OwnFieldsOnly.refl _ s
    · exact sampleBit_ownFieldsOnly p n i s
  | emk p n =>
    rcases effect_emk p n s with h | ⟨ev, h⟩ <;> rw [h]
    · exact OwnFieldsOnly.refl _ s
    · exact emitAndCheck_ownFieldsOnly (.inr ⟨p, n, rfl⟩) ev s
  | sync => exact emitAndCheck_ownFieldsOnly (.inl rfl) _ s
  | chkc => exact checkCancel_ownFieldsOnly s
  | wait => exact { OwnFieldsOnly.refl .wait s with jump := nofun }
  | jmp a => exact OwnFieldsOnly.refl _ s

theorem exec_ownFieldsOnly {i : Instr} {s t : State} (h : exec i s = .next t) : OwnFieldsOnly i s t := by
  obtain ⟨_, a, rfl⟩ := exec_next_effect h
  exact (effect_ownFieldsOnly i s).withUpc a

/-- Settles O36: each effect writes its own fields only, and a next state is an effect but for upc. -/
theorem everyFieldHasItsOwnWriters : Obligations.EveryFieldHasItsOwnWriters := by
  intro i s t h
  have o := exec_ownFieldsOnly h
  exact ⟨o.cfg, o.kill, o.clkQ, o.stbQ, o.pinMode, o.mask, o.sinkOpen, o.failCnt, o.mode, o.setup, o.cancel, o.jump⟩

/-! ## The masks (R48) -/

/-- A sampled mask is the old one with one of bits 0 to 11 written, so that bits 12 to 15 stay 0. -/
theorem sampleBit_maskClean {p : Pad} {s : State} (i : Fin 12) (h : maskClean (s.mask p)) :
    maskClean ((sampleBit p i s).mask p) := by
  have hm : (sampleBit p i s).mask p = writeBit (s.mask p) i.val (pressedBit (s.nextLevel p)) := by
    cases p <;> rfl
  rw [hm]
  exact maskClean_writeBit _ _ i.isLt h

theorem effect_maskClean (i : Instr) {s : State} (h : ∀ p, maskClean (s.mask p)) (p : Pad) :
    maskClean ((effect i s).mask p) := by
  by_cases hi : ∃ n, i = .smp p n
  · obtain ⟨n, rfl⟩ := hi
    rcases effect_smp p n s with he | ⟨i, he⟩ <;> rw [he]
    · exact h p
    · exact sampleBit_maskClean i (h p)
  · rw [((effect_ownFieldsOnly i s).mask p fun n hn => hi ⟨n, hn⟩).1]
    exact h p

theorem hostKill_mask (s : State) (p : Pad) : (hostKill s).mask p = s.mask p := by cases p <;> rfl

/-- Settles O40: reset clears the masks, and SMP, their only writer, writes a bit below 12. -/
theorem maskHighBitsStayZero : Obligations.MaskHighBitsStayZero := by
  refine ⟨fun c e p => ?_, fun s t hs h => ?_⟩
  · have hzero : (State.resetWith c e).mask p = 0#16 := by cases p <;> rfl
    rw [hzero]
    exact (by decide : (0#16).extractLsb' 12 4 = 0#4)
  · exact step_keeps (P := fun u => ∀ p, maskClean (u.mask p))
      (fun u hu p => (hostKill_mask u p).symm ▸ hu p) (fun _ hu => hu)
      (fun i u _ _ hu => effect_maskClean i hu) hs h

/-! ## The pin modes (R45) -/

theorem initialise_pinMode {s : State} (h : s.nextGpio = .ok) :
    (initialise s).pinMode .clk = .output ∧ (initialise s).pinMode .stb = .output ∧
      ∀ p, (initialise s).pinMode (.data p) = .input := by
  rcases initialise_cases s with ⟨hg, _⟩ | ⟨_, _, he⟩ | ⟨_, _, he⟩
  · simp [h] at hg
  all_goals
    rw [he]
    refine ⟨rfl, rfl, fun p => ?_⟩
    cases p <;> rfl

/-- Settles O41: INIT is the only writer of PINMODE, and it runs in INITIALIZING only. -/
theorem pinModesAreWrittenByInitOnly : Obligations.PinModesAreWrittenByInitOnly := by
  refine ⟨?_, ?_, ?_⟩
  · rintro c e (_ | _ | (_ | _)) <;> rfl
  · intro s t h hg
    obtain ⟨_, a, rfl⟩ := exec_next_effect h
    exact initialise_pinMode hg
  · rintro s t h ⟨role, hrole⟩
    rcases step_next_effect h with rfl | ⟨w, i, a, hw, hd, hm, rfl⟩
    · exact absurd rfl hrole
    · have hi : i = .init := by
        by_contra hi
        exact hrole ((effect_ownFieldsOnly i (passBoundary s)).pinMode hi role)
      subst hi
      exact ⟨hm, w, hw, hd⟩

/-! ## The micro-program counter (R42) -/

theorem toNat_succ_eq_4096_iff (a : RomAddr) : a.toNat + 1 = 4096 ↔ a = 4095#12 := by
  rw [← BitVec.toNat_inj, BitVec.toNat_ofNat]
  omega

/-- At the last address a micro-op either ends the run, or faults F_PC in the state whose effect it would have had
at address 0. -/
theorem exec_last {i : Instr} {s : State} (hwf : i.wf = true) (hj : ∀ a, i ≠ .jmp a) (hm : s.mode = modeOf i)
    (hu : s.upc = 4095#12) :
    (exec i s = .next (effect i s) ∧ (effect i s).mode = .terminated) ∨
    (exec i s = .fault (.pc (effect i s)) ∧ (effect i s).mode ≠ .terminated ∧
      exec i { s with upc := 0#12 } = .next { effect i s with upc := 1#12 }) := by
  by_cases ht : (effect i s).mode = .terminated
  · exact .inl ⟨by rw [exec_of_mode hwf hj hm, complete_ended ht], ht⟩
  · have hzero : effect i { s with upc := 0#12 } = { effect i s with upc := 0#12 } :=
      effect_elsewhere (fun u => { u with upc := 0#12 }) i s (.inl ⟨0#12, rfl⟩)
    refine .inr ⟨by rw [exec_of_mode hwf hj hm, complete_last hu ht], ht, ?_⟩
    have hm0 : { s with upc := 0#12 }.mode = modeOf i := hm
    rw [exec_of_mode hwf hj hm0, hzero]
    exact complete_running (show 0#12 ≠ 4095#12 by decide) ht

/-- Settles O11: effects leave upc alone, so that it moves by the advance or by the jump only. -/
theorem upcAdvancesHoldsOrJumps : Obligations.UpcAdvancesHoldsOrJumps := by
  refine ⟨?_, ?_, fun _ _ => rfl⟩
  · intro i s t h
    have hupc : (effect i s).upc = s.upc := (effect_keeps i s).2.1
    obtain ⟨_, _, ⟨a, rfl, rfl⟩ | ⟨hj, hend, rfl⟩ | ⟨hj, hrun, hlast, rfl⟩⟩ := exec_eq_next h
    · refine ⟨?_, fun hj => absurd rfl (hj a)⟩
      rintro b hb
      exact Instr.jmp.inj hb
    · exact ⟨fun a ha => absurd ha (hj a), fun _ => ⟨fun _ => hupc, fun hrun => absurd hend hrun⟩⟩
    · refine ⟨fun a ha => absurd ha (hj a), fun _ => ⟨fun hend => absurd hend hrun, fun _ => ⟨?_, ?_⟩⟩⟩
      · exact congrArg (· + 1#12) hupc
      · rwa [ne_eq, toNat_succ_eq_4096_iff]
  · intro i s hwf hj hm hu
    exact ⟨effect i s, exec_last hwf hj hm ((toNat_succ_eq_4096_iff _).mp hu), (effect_keeps i s).2.1⟩

end Sys2Proof.Machine
end

section
/-! The state invariant: a step from a state that meets it leaves the block polling, configured as INIT sets it up, or
ends the run, with REASON, EXIT and TRACE as its way of ending calls for (41_mapper.md R146; 42_control.md R160, R161;
60_exceptions.md R201, R202, R207). -/

namespace Sys2Proof.Machine

/-! ## The two kinds of state a step leads to -/

/-- The state of a block that polls (R41, R45, R49 to R51, R146), but for its masks. -/
structure Running (s : State) : Prop where
  mode : s.mode = .polling
  pins : s.pinsConfigured = true
  sink : s.sinkOpen = true
  below_limit : s.cfg.accepted = true → limitReached s = false
  reason : s.reason = .none
  exit : s.exit = none

/-- The state of a run that has ended (R49 to R51, R201), but for its masks. -/
structure Ended (s : State) : Prop where
  mode : s.mode = .terminated
  reason : s.reason ≠ .none
  exit : exitMatches s
  cancel : s.reason = .cancel → s.sinkOpen = false
  traced : (∃ code, s.exit = some code ∧ s.trace.getLast? = some (.exit code)) ∨
    (s.reason = .kill ∧ s.trace.getLast? = some .killed)

theorem Inv.running {s : State} (h : Inv s) (hm : s.mode = .polling) : Running s := by
  obtain ⟨hpins, hsink⟩ := h.polling_is_configured hm
  have hreason : s.reason = .none := by
    by_contra hr
    have hend := h.ended_has_reason.mpr hr
    rw [hm] at hend
    cases hend
  have hexit : s.exit = none := by
    have hx := h.exit_matches
    rwa [exitMatches, hreason] at hx
  exact ⟨hm, hpins, hsink, h.polling_below_limit hm, hreason, hexit⟩

theorem Running.inv {s : State} (h : Running s) (hmask : ∀ p, maskClean (s.mask p)) : Inv s where
  initializing_is_reset hm := by simp [h.mode] at hm
  polling_is_configured _ := ⟨h.pins, h.sink⟩
  polling_below_limit _ := h.below_limit
  ended_has_reason := by simp [h.mode, h.reason]
  exit_matches := by simp only [exitMatches, h.reason, h.exit]
  cancel_closes hr := by simp [h.reason] at hr
  masks_clean := ⟨hmask .pad0, hmask .pad1⟩
  ended_traced hm := by simp [h.mode] at hm

theorem Ended.inv {s : State} (h : Ended s) (hmask : ∀ p, maskClean (s.mask p)) : Inv s where
  initializing_is_reset hm := by simp [h.mode] at hm
  polling_is_configured hm := by simp [h.mode] at hm
  polling_below_limit hm := by simp [h.mode] at hm
  ended_has_reason := ⟨fun _ => h.reason, fun _ => h.mode⟩
  exit_matches := h.exit
  cancel_closes := h.cancel
  masks_clean := ⟨hmask .pad0, hmask .pad1⟩
  ended_traced _ := h.traced

theorem Inv.maskClean {s : State} (h : Inv s) (p : Pad) : maskClean (s.mask p) := by
  cases p with
  | pad0 => exact h.masks_clean.1
  | pad1 => exact h.masks_clean.2

/-! ## The failure limit (R19, R146) -/

theorem limitReached_eq_false_iff (s : State) :
    limitReached s = false ↔ ∀ limit, s.cfg.failLimit = some limit → s.failCnt < limit := by
  unfold limitReached
  cases s.cfg.failLimit <;> simp

/-- An accepted configuration has no limit that is reached without a failure. -/
theorem failLimit_pos {c : Config} (h : c.accepted = true) {limit : Nat} (hl : c.failLimit = some limit) :
    0 < limit := by
  simp only [Config.accepted, Config.inRange, Bool.and_eq_true] at h
  obtain ⟨_, _, hpos⟩ := h
  rw [Config.failLimitPositive, hl] at hpos
  exact of_decide_eq_true hpos

theorem limitReached_of_no_failure {s : State} (hc : s.cfg.accepted = true) (hf : s.failCnt = 0) :
    limitReached s = false :=
  (limitReached_eq_false_iff s).mpr fun _ hl => hf ▸ failLimit_pos hc hl

theorem limitReached_congr {s t : State} (hc : t.cfg = s.cfg) (hf : t.failCnt = s.failCnt) :
    limitReached t = limitReached s := by rw [limitReached, limitReached, hc, hf]

/-! ## Where the effects lead -/

theorem pinsConfigured_congr {s t : State} (h : ∀ role, t.pinMode role = s.pinMode role) :
    t.pinsConfigured = s.pinsConfigured := by
  have hclk : t.pinModeClk = s.pinModeClk := h .clk
  have hstb : t.pinModeStb = s.pinModeStb := h .stb
  have hdata0 : t.pinModeData0 = s.pinModeData0 := h (.data .pad0)
  have hdata1 : t.pinModeData1 = s.pinModeData1 := h (.data .pad1)
  rw [State.pinsConfigured, State.pinsConfigured, hclk, hstb, hdata0, hdata1]

/-- INIT, when nothing has failed and the run has not ended (R160). -/
theorem initialise_running_or_ended {s : State} (hf : s.failCnt = 0) (hr : s.reason = .none) (hx : s.exit = none) :
    Running (initialise s) ∨ Ended (initialise s) := by
  rcases initialise_cases s with ⟨_, h⟩ | ⟨_, _, h⟩ | ⟨_, _, h⟩ <;> rw [h]
  · exact .inr ⟨rfl, nofun, rfl, nofun, .inl ⟨s.cfg.exitFail, rfl, by simp⟩⟩
  · exact .inr ⟨rfl, nofun, rfl, nofun, .inl ⟨s.cfg.exitFail, rfl, by simp⟩⟩
  · exact .inl ⟨rfl, rfl, rfl, fun hc => limitReached_of_no_failure hc hf, hr, hx⟩

/-- CHKC (R161). -/
theorem checkCancel_running_or_ended {s : State} (h : Running s) :
    Running (checkCancel s) ∨ Ended (checkCancel s) := by
  rcases checkCancel_cases s with ⟨_, he⟩ | ⟨_, _, he⟩ | ⟨_, _, he⟩ <;> rw [he]
  · exact .inl h
  · exact .inl { h with }
  · exact .inr ⟨rfl, nofun, rfl, fun _ => rfl, .inl ⟨0, rfl, by simp⟩⟩

/-- EMK and SYNC (R144 to R146). -/
theorem emitAndCheck_running_or_ended (ev : SinkEvent) {s : State} (h : Running s) :
    Running (emitAndCheck ev s) ∨ Ended (emitAndCheck ev s) := by
  rcases emitAndCheck_cases ev s with ⟨_, he⟩ | ⟨_, hl, he⟩ | ⟨_, _, he⟩ <;> rw [he]
  · exact .inl { h with below_limit := fun hc => limitReached_of_no_failure hc rfl }
  · exact .inl { h with below_limit := fun _ => (limitReached_eq_false_iff _).mpr hl }
  · exact .inr ⟨rfl, nofun, rfl, nofun, .inl ⟨s.cfg.exitFail, rfl, by simp⟩⟩

/-- A micro-op that writes none of the fields in question leaves the block polling. -/
theorem Running.of_ownFieldsOnly {i : Instr} {s t : State} (h : Running s) (o : OwnFieldsOnly i s t)
    (hinit : i ≠ .init) (hchkc : i ≠ .chkc) (hsync : i ≠ .sync) (hemk : ∀ p n, i ≠ .emk p n) : Running t := by
  obtain ⟨hmode, hreason, hexit⟩ := o.mode hinit hchkc hsync hemk
  have hfail := (o.failCnt hsync hemk).1
  exact {
    mode := hmode.trans h.mode
    pins := (pinsConfigured_congr (o.pinMode hinit)).trans h.pins
    sink := (o.sinkOpen hinit hchkc).trans h.sink
    below_limit := fun hc => (limitReached_congr o.cfg hfail).trans (h.below_limit (o.cfg ▸ hc))
    reason := hreason.trans h.reason
    exit := hexit.trans h.exit }

theorem effect_running_or_ended {i : Instr} {s : State} (hi : i ≠ .init) (h : Running s) :
    Running (effect i s) ∨ Ended (effect i s) := by
  by_cases hchkc : i = .chkc
  · subst hchkc
    exact checkCancel_running_or_ended h
  by_cases hsync : i = .sync
  · subst hsync
    exact emitAndCheck_running_or_ended .sync h
  by_cases hemk : ∃ p n, i = .emk p n
  · obtain ⟨p, n, rfl⟩ := hemk
    rcases effect_emk p n s with he | ⟨ev, he⟩ <;> rw [he]
    · exact .inl h
    · exact emitAndCheck_running_or_ended ev h
  · exact .inl (h.of_ownFieldsOnly (effect_ownFieldsOnly i s) hi hchkc hsync fun p n he => hemk ⟨p, n, he⟩)

/-! ## The invariant along a step -/

theorem modeOf_of_ne_init {i : Instr} (h : i ≠ .init) : modeOf i = .polling := by
  cases i with
  | init => exact absurd rfl h
  | _ => rfl

/-- From a state that meets the invariant a micro-op in its own mode leaves the block polling, or ends the run. -/
theorem Inv.effect_running_or_ended {i : Instr} {s : State} (h : Inv s) (hm : s.mode = modeOf i) :
    Running (effect i s) ∨ Ended (effect i s) := by
  by_cases hi : i = .init
  · subst hi
    have hreset : s = State.resetWith s.cfg s.env := h.initializing_is_reset hm
    exact initialise_running_or_ended (congrArg State.failCnt hreset) (congrArg State.reason hreset)
      (congrArg State.exit hreset)
  · exact Machine.effect_running_or_ended hi (h.running (hm.trans (modeOf_of_ne_init hi)))

theorem hostKill_ended (s : State) : Ended (hostKill s) :=
  ⟨rfl, nofun, rfl, nofun, .inr ⟨rfl, by simp [hostKill_eq]⟩⟩

/-- The invariant speaks of the kill countdown nowhere. -/
theorem Inv.passBoundary {s : State} (h : Inv s) : Inv (passBoundary s) :=
  { h with initializing_is_reset := fun hm => congrArg Machine.passBoundary (h.initializing_is_reset hm) }

/-- Settles O45: an effect in its own mode leaves the block polling or ends the run, a kill ends it, and both keep the
masks clean. -/
theorem everyStepKeepsTheInvariant : Obligations.EveryStepKeepsTheInvariant := by
  intro s t hs h
  refine step_keeps (P := Inv) ?_ (fun _ hu => hu.passBoundary) ?_ hs h
  · exact fun u hu => (hostKill_ended u).inv fun p => (hostKill_mask u p).symm ▸ hu.maskClean p
  · intro i u a hm hu
    have hmask : ∀ p, maskClean ((effect i u).mask p) := effect_maskClean i hu.maskClean
    -- neither kind of state speaks of upc, so that moving it keeps the kind
    rcases hu.effect_running_or_ended hm with hrun | hend
    · exact Running.inv { hrun with } hmask
    · exact Ended.inv { hend with } hmask

end Sys2Proof.Machine
end

section
/-! TRACE and FAILCNT (10_state.md R52, R53): a micro-op appends to TRACE, with one event write or with none, FAILCNT
counts the failed writes at the end of TRACE, and without a limit nothing but FAILCNT depends on it. -/

namespace Sys2Proof.Machine

/-! ## The failures at the end of a trace -/

/-- Events that are no event writes do not count (R52). -/
theorem failureStreak_append_silent (trace : List Event) {l : List Event} (hl : l.filterMap Event.writeResult = []) :
    failureStreak (trace ++ l) = failureStreak trace := by
  rw [failureStreak, List.filterMap_append, hl, List.append_nil, failureStreak]

/-- A successful write clears the count and a failed one raises it (R52). -/
theorem failureStreak_append_write (trace : List Event) {e : Event} {r : Ack} {l : List Event}
    (he : e.writeResult = some r) (hl : l.filterMap Event.writeResult = []) :
    failureStreak (trace ++ e :: l) = if r = .fail then failureStreak trace + 1 else 0 := by
  have hlast : (trace ++ e :: l).filterMap Event.writeResult = trace.filterMap Event.writeResult ++ [r] := by
    rw [List.filterMap_append, List.filterMap_cons_some he, hl]
  cases r <;> simp [failureStreak, hlast]

theorem writeResult_traced (ev : SinkEvent) (r : Ack) : (ev.traced r).writeResult = some r := by cases ev <;> rfl

/-! ## What an effect appends -/

/-- An effect is one event write, or it appends events that are none and leaves FAILCNT alone. -/
theorem effect_emission_or_silent (i : Instr) (s : State) :
    (∃ ev, effect i s = emitAndCheck ev s) ∨
    ((effect i s).failCnt = s.failCnt ∧
      ∃ l, (effect i s).trace = s.trace ++ l ∧ l.filterMap Event.writeResult = []) := by
  cases i with
  | init =>
    rcases initialise_cases s with ⟨_, h⟩ | ⟨_, _, h⟩ | ⟨_, _, h⟩ <;> rw [effect, h] <;>
    exact .inr ⟨rfl, _, rfl, rfl⟩
  | clkl => exact .inr ⟨rfl, _, rfl, rfl⟩
  | clkh => exact .inr ⟨rfl, _, rfl, rfl⟩
  | stbl => exact .inr ⟨rfl, _, rfl, rfl⟩
  | stbh => exact .inr ⟨rfl, _, rfl, rfl⟩
  | smp p n =>
    rcases effect_smp p n s with h | ⟨i, h⟩ <;> rw [h]
    · exact .inr ⟨rfl, [], by simp⟩
    · rw [sampleBit_eq]
      exact .inr ⟨State.setMask_failCnt .., _, rfl, rfl⟩
  | emk p n =>
    rcases effect_emk p n s with h | ⟨ev, h⟩ <;> rw [h]
    · exact .inr ⟨rfl, [], by simp⟩
    · exact .inl ⟨ev, rfl⟩
  | sync => exact .inl ⟨.sync, rfl⟩
  | chkc =>
    rcases checkCancel_cases s with ⟨_, h⟩ | ⟨_, _, h⟩ | ⟨_, _, h⟩ <;> rw [effect, h]
    · exact .inr ⟨rfl, [], by simp⟩
    · exact .inr ⟨rfl, _, rfl, rfl⟩
    · exact .inr ⟨rfl, _, rfl, rfl⟩
  | wait => exact .inr ⟨rfl, _, rfl, rfl⟩
  | jmp a => exact .inr ⟨rfl, [], by simp [effect]⟩

theorem effect_appends (i : Instr) (s : State) : ∃ l, (effect i s).trace = s.trace ++ l := by
  rcases effect_emission_or_silent i s with ⟨ev, he⟩ | ⟨_, l, hl, _⟩
  · obtain ⟨rest, hrest, _⟩ := emitAndCheck_trace ev s
    exact ⟨_, he ▸ hrest⟩
  · exact ⟨l, hl⟩

/-- Settles O38: kills and effects append. -/
theorem traceIsAppendOnly : Obligations.TraceIsAppendOnly := by
  refine ⟨fun _ _ => rfl, fun s t h => ?_⟩
  refine step_keeps (P := fun u => ∃ l, u.trace = s.trace ++ l) ?_ (fun _ hu => hu) ?_ ⟨[], by simp⟩ h
  · rintro u ⟨l, hl⟩
    exact ⟨l ++ [.killed], by rw [hostKill_eq, hl, List.append_assoc]⟩
  · rintro i u _ _ ⟨l, hl⟩
    obtain ⟨l', hl'⟩ := effect_appends i u
    exact ⟨l ++ l', by rw [hl', hl, List.append_assoc]⟩

/-! ## FAILCNT counts them -/

theorem emitAndCheck_counts (ev : SinkEvent) {s : State} (h : s.failCnt = failureStreak s.trace) :
    (emitAndCheck ev s).failCnt = failureStreak (emitAndCheck ev s).trace := by
  rcases emitAndCheck_cases ev s with ⟨_, he⟩ | ⟨_, _, he⟩ | ⟨_, _, he⟩ <;> rw [he]
  · exact (failureStreak_append_write s.trace (writeResult_traced ev .ok) rfl).symm
  · exact h ▸ (failureStreak_append_write s.trace (writeResult_traced ev .fail) rfl).symm
  · exact h ▸ (failureStreak_append_write s.trace (writeResult_traced ev .fail) rfl).symm

theorem effect_counts (i : Instr) {s : State} (h : s.failCnt = failureStreak s.trace) :
    (effect i s).failCnt = failureStreak (effect i s).trace := by
  rcases effect_emission_or_silent i s with ⟨ev, he⟩ | ⟨hf, l, htrace, hl⟩
  · rw [he]
    exact emitAndCheck_counts ev h
  · rw [hf, htrace, failureStreak_append_silent _ hl, h]

/-! ## Without a limit nothing else depends on FAILCNT -/

section
variable (n : Nat)

/-- INIT does not read FAILCNT: its two draws, one after the other. -/
theorem initialise_setFailCnt (s : State) : initialise (s.setFailCnt n) = (initialise s).setFailCnt n := by
  have hgpio : gpioSetup (s.setFailCnt n) = ((gpioSetup s).1, (gpioSetup s).2.setFailCnt n) := rfl
  rw [initialise, initialise, hgpio]
  obtain ⟨g, s1⟩ := gpioSetup s
  cases g with
  | fail => rfl
  | ok =>
    have hsink : sinkOpen (configurePins (s1.setFailCnt n)) =
        ((sinkOpen (configurePins s1)).1, (sinkOpen (configurePins s1)).2.setFailCnt n) := rfl
    simp only [hsink]
    obtain ⟨k, s2⟩ := sinkOpen (configurePins s1)
    cases k <;> rfl

theorem checkCancel_setFailCnt (s : State) : checkCancel (s.setFailCnt n) = (checkCancel s).setFailCnt n := by
  have hcancel : cancelInput (s.setFailCnt n) = ((cancelInput s).1, (cancelInput s).2.setFailCnt n) := rfl
  rw [checkCancel, checkCancel, State.setFailCnt_cfg, hcancel]
  cases s.cfg.cancelPresent with
  | false => rfl
  | true =>
    obtain ⟨c, s1⟩ := cancelInput s
    cases c <;> rfl

theorem writeResult_setFailCnt (r : Ack) {s : State} (h : s.cfg.failLimit = none) :
    ∃ m, writeResult r (s.setFailCnt n) = (writeResult r s).setFailCnt m := by
  cases r with
  | ok => exact ⟨0, rfl⟩
  | fail =>
    have hbelow : ∀ u : State, u.cfg = s.cfg → ∀ limit, u.cfg.failLimit = some limit → u.failCnt + 1 < limit :=
      fun u hu limit hl => by simp [hu, h] at hl
    rw [writeResult_fail_below s (hbelow s rfl), writeResult_fail_below (s.setFailCnt n) (hbelow _ rfl)]
    exact ⟨n + 1, rfl⟩

theorem effect_setFailCnt (i : Instr) {s : State} (h : s.cfg.failLimit = none) :
    ∃ m, effect i (s.setFailCnt n) = (effect i s).setFailCnt m := by
  have hemit : ∀ ev, ∃ m, emitAndCheck ev (s.setFailCnt n) = (emitAndCheck ev s).setFailCnt m := fun ev =>
    writeResult_setFailCnt n s.nextEmit (s := (emit ev s).2) h
  cases i with
  | init => exact ⟨n, initialise_setFailCnt n s⟩
  | clkl => exact ⟨n, rfl⟩
  | clkh => exact ⟨n, rfl⟩
  | stbl => exact ⟨n, rfl⟩
  | stbh => exact ⟨n, rfl⟩
  | smp p k =>
    refine ⟨n, ?_⟩
    by_cases hk : k.toNat < 12
    · simp only [effect, dif_pos hk]
      cases p <;> rfl
    · simp only [effect, dif_neg hk]
  | emk p k =>
    by_cases hk : k.toNat < 12
    · simp only [effect, dif_pos hk]
      cases p <;> exact hemit _
    · simp only [effect, dif_neg hk]
      exact ⟨n, rfl⟩
  | sync => exact hemit .sync
  | chkc => exact ⟨n, checkCancel_setFailCnt n s⟩
  | wait => exact ⟨n, rfl⟩
  | jmp a => exact ⟨n, rfl⟩

theorem exec_setFailCnt {i : Instr} {s t : State} (h : s.cfg.failLimit = none) (hx : exec i s = .next t) :
    ∃ m, exec i (s.setFailCnt n) = .next (t.setFailCnt m) := by
  obtain ⟨m, hm⟩ := effect_setFailCnt n i h
  obtain ⟨hwf, hmode, ⟨a, rfl, rfl⟩ | ⟨hj, hend, rfl⟩ | ⟨hj, hrun, hu, rfl⟩⟩ := exec_eq_next hx
  · exact ⟨n, exec_jmp a hmode⟩
  · refine ⟨m, ?_⟩
    rw [exec_of_mode (s := s.setFailCnt n) hwf hj hmode, hm]
    exact complete_ended hend
  · refine ⟨m, ?_⟩
    rw [exec_of_mode (s := s.setFailCnt n) hwf hj hmode, hm]
    exact complete_running hu hrun

theorem step_setFailCnt {s t : State} (h : s.cfg.failLimit = none) (hstep : step s = .next t) :
    ∃ m, step (s.setFailCnt n) = .next (t.setFailCnt m) := by
  obtain ⟨hc, hm, ⟨hk, rfl⟩ | ⟨hk, w, i, hw, hd, hx⟩⟩ := step_eq_next hstep
  · exact ⟨n, step_killed (s := s.setFailCnt n) hc hm hk⟩
  · obtain ⟨m, hx'⟩ := exec_setFailCnt n (s := passBoundary s) h hx
    exact ⟨m, (step_runs (s := s.setFailCnt n) ⟨hc, hm, hk⟩ hw hd).trans hx'⟩

end

/-- Settles O37: an event write counts as TRACE does and nothing else is counted; without a limit the count is never
compared. -/
theorem failCntCountsConsecutiveFailures : Obligations.FailCntCountsConsecutiveFailures := by
  refine ⟨fun _ _ => ⟨rfl, rfl⟩, fun s t hs h => ?_, fun s t n h hstep => step_setFailCnt n h hstep⟩
  refine step_keeps (P := fun u => u.failCnt = failureStreak u.trace) ?_ (fun _ hu => hu)
    (fun i _ _ _ hu => effect_counts i hu) hs h
  intro u hu
  exact hu.trans (failureStreak_append_silent u.trace rfl).symm

end Sys2Proof.Machine
end

section
/-! Two views of the state: the output lines (10_state.md R43, R44) and the STATUS word (10_state.md R56). -/

namespace Sys2Proof.Machine

/-! ## Output lines -/

/-- Settles O16: a line that is driven carries its register while the block runs. -/
theorem outputLinesFollowTheirRegisters : Obligations.OutputLinesFollowTheirRegisters := by
  intro s
  refine ⟨fun hm hp => ?_, fun hm hp => ?_, fun hp => if_neg hp, fun hp => if_neg hp, fun _ => rfl⟩
  · exact (if_pos hp).trans (congrArg some (lineLevel_running hm .clk s.clkQ))
  · exact (if_pos hp).trans (congrArg some (lineLevel_running hm .stb s.stbQ))

/-! ## The STATUS word -/

/-- Parts of a vector as digits of its number. -/
theorem toNat_append_eq_mul_add {v w : Nat} (x : BitVec v) (y : BitVec w) :
    (x ++ y).toNat = x.toNat * 2 ^ w + y.toNat := by
  rw [BitVec.toNat_append, ← Nat.shiftLeft_add_eq_or_of_lt y.isLt, Nat.shiftLeft_eq]

/-- The STATUS word as a number (R56). -/
theorem toNat_status (s : State) :
    s.status.toNat = 256 * (exitByte s).toNat + 16 * s.reason.code.toNat + 8 * s.pinsConfigured.toNat +
      4 * s.sinkOpen.toNat + s.mode.code.toNat := by
  simp only [State.status, toNat_append_eq_mul_add, BitVec.toNat_ofBool]
  omega

theorem pinsConfigured_eq (s : State) :
    s.pinsConfigured = decide (s.pinMode .clk = .output ∧ s.pinMode .stb = .output ∧
      s.pinMode (.data .pad0) = .input ∧ s.pinMode (.data .pad1) = .input) := by
  rw [Bool.eq_iff_iff, decide_eq_true_iff]
  simp [State.pinsConfigured, State.pinMode, and_assoc]

/-- A bit of a vector, from the number the vector stands for. -/
theorem getLsbD_of_div_mod {w k : Nat} {x : BitVec w} {b : Bool} (h : x.toNat / 2 ^ k % 2 = b.toNat) :
    x.getLsbD k = b := by
  rw [BitVec.getLsbD, Nat.testBit_eq_decide_div_mod_eq, h]
  cases b <;> rfl

/-- Settles O43: each field is read off the number STATUS stands for. -/
theorem statusPacksItsFields : Obligations.StatusPacksItsFields := by
  intro s
  have hstatus := toNat_status s
  have hmode := s.mode.code.isLt
  have hsink := s.sinkOpen.toNat_lt
  have hpins := s.pinsConfigured.toNat_lt
  have hreason := s.reason.code.isLt
  refine ⟨?_, ?_, ?_, ?_, ?_⟩
  · have h : s.status.toNat % 4 = s.mode.code.toNat := by omega
    rw [h]
    cases s.mode <;> rfl
  · exact getLsbD_of_div_mod (by omega)
  · rw [← pinsConfigured_eq]
    exact getLsbD_of_div_mod (by omega)
  · have h : s.status.toNat / 16 % 16 = s.reason.code.toNat := by omega
    rw [h]
    cases s.reason <;> rfl
  · have h : s.status.toNat / 256 = (exitByte s).toNat := by omega
    rw [h, exitByte]
    cases s.exit <;> rfl

end Sys2Proof.Machine
end

section
/-! The configuration (20_memory.md R82, R93): the reference configuration is accepted, and no step changes the
configuration it runs under. -/

namespace Sys2Proof.Machine

/-! ## The reference configuration -/

theorem referenceTable_sel (firstKey : Nat) (j : Fin 12) : (referenceTable firstKey)[j].sel = bitSelector j.val := by
  fin_cases j <;> rfl

theorem bitSelector_ne_zero (j : Fin 12) : bitSelector j.val ≠ 0#16 := by
  revert j
  decide

theorem referenceConfig_table_sel (p : Pad) (j : Fin 12) : (referenceConfig.table p)[j].sel = bitSelector j.val := by
  cases p with
  | pad0 => exact referenceTable_sel 0 j
  | pad1 => exact referenceTable_sel 12 j

/-- R22(a) to (d): what remains beside the selectors is about 4 pins, 24 keys and the length of the ROM. -/
theorem referenceConfig_wf : referenceConfig.wf = true := by
  refine (wf_iff referenceConfig).mpr ⟨by decide, ?_, by decide, by decide⟩
  rw [selectorsNonzero_iff]
  intro p j
  rw [referenceConfig_table_sel]
  exact bitSelector_ne_zero j

theorem referenceConfig_accepted : referenceConfig.accepted = true := by
  rw [Config.accepted, referenceConfig_wf, Bool.true_and]
  decide

/-- Settles O7: both tables hold the single-bit selectors, from which acceptance follows; the policies and the ROM are
read off the definition. -/
theorem referenceConfigurationIsAccepted : Obligations.ReferenceConfigurationIsAccepted :=
  ⟨referenceConfig_accepted, referenceConfig_table_sel, rfl, rfl, rfl, rfl, rfl, rfl⟩

/-! ## The configuration along a step -/

/-- Settles O39: a kill, the countdown and every effect keep the configuration as a whole, so its parts with it. -/
theorem configurationIsImmutable : Obligations.ConfigurationIsImmutable := by
  intro s t h
  have hcfg : t.cfg = s.cfg := step_keeps_cfg h
  exact ⟨congrArg Config.rom hcfg, fun p => congrArg (Config.table · p) hcfg, hcfg⟩

end Sys2Proof.Machine
end

section
/-! Decoder and encoder (30_encoding.md R101 to R106): the decoder undoes the encoder, every word that R106 leaves
legal is the word of some well-formed micro-op, and the decoder refuses the others. -/

namespace Sys2Proof

/-! ## The format of an opcode (R102) -/

theorem decode_reservedOp {w : Word} (hop : w.toNat / 4096 = 0 ∨ 9 ≤ w.toNat / 4096) :
    decode w = .error .reservedOp := by
  have hw := w.isLt
  unfold decode
  rw [toNat_fieldOp]
  split
  on_goal 9 => rfl
  all_goals omega

theorem decode_formatZ {w : Word}
    (hop : w.toNat / 4096 = 1 ∨ w.toNat / 4096 = 5 ∨ w.toNat / 4096 = 6 ∨ w.toNat / 4096 = 7) :
    ∃ i, decode w = decodeZ w i := by
  unfold decode
  rw [toNat_fieldOp]
  rcases hop with hop | hop | hop | hop <;> rw [hop] <;> exact ⟨_, rfl⟩

theorem decode_formatW {w : Word} (hop : w.toNat / 4096 = 2) : decode w = decodeW w := by
  rw [decode, toNat_fieldOp, hop]
  rfl

theorem decode_opcode_smp {w : Word} (hop : w.toNat / 4096 = 3) : decode w = decodePN w .smp := by
  rw [decode, toNat_fieldOp, hop]
  rfl

theorem decode_opcode_emk {w : Word} (hop : w.toNat / 4096 = 4) : decode w = decodePN w .emk := by
  rw [decode, toNat_fieldOp, hop]
  rfl

theorem decode_formatJ {w : Word} (hop : w.toNat / 4096 = 8) : decode w = .ok (.jmp (fieldT w)) := by
  rw [decode, toNat_fieldOp, hop]
  rfl

/-! ## The decoder on the words of the encoder -/

theorem indexOk_iff (n : BitVec 4) : indexOk n = true ↔ n.toNat ≤ 11 := decide_eq_true_iff

theorem Pad.ofBit_toBit (p : Pad) : Pad.ofBit p.toBit = p := by cases p <;> rfl

theorem Pad.toBit_ofBit (b : Bool) : (Pad.ofBit b).toBit = b := by cases b <;> rfl

theorem toNat_fieldP (w : Word) : (fieldP w).toNat = w.toNat / 256 % 2 := by
  rw [fieldP_eq]
  rcases Nat.mod_two_eq_zero_or_one (w.toNat / 256) with h | h <;> simp [h]

/-- The operands of format PN, read off the number of a word that holds a legal index (R104). -/
theorem decodePN_of_operands {w : Word} {p : Pad} {n : BitVec 4} (mk : Pad → BitVec 4 → Instr)
    (hw : w.toNat % 4096 = 256 * p.toBit.toNat + n.toNat) (hn : indexOk n = true) :
    decodePN w mk = .ok (mk p n) := by
  have hbit := p.toBit.toNat_lt
  have hn16 := n.isLt
  have hhigh : fieldHigh w = 0#3 := (fieldHigh_eq_zero w).mpr (by omega)
  have hmid : fieldMidPN w = 0#4 := (fieldMidPN_eq_zero w).mpr (by omega)
  have hindex : fieldN w = n := BitVec.eq_of_toNat_eq (by rw [toNat_fieldN]; omega)
  have hbit_eq : (fieldP w).toNat = p.toBit.toNat := by
    rw [toNat_fieldP]
    omega
  have hpad : fieldP w = p.toBit := by rw [← Bool.ofNat_toNat (fieldP w), hbit_eq, Bool.ofNat_toNat]
  rw [decodePN, if_pos ⟨hhigh, hmid⟩, hindex, if_pos hn, hpad, Pad.ofBit_toBit]

theorem decode_encode_smp {n : BitVec 4} (p : Pad) (hn : indexOk n = true) :
    decode (encode (.smp p n)) = .ok (.smp p n) := by
  have hw := toNat_encode_smp p n
  have hbit := p.toBit.toNat_lt
  rw [decode_opcode_smp (by omega)]
  exact decodePN_of_operands .smp (by omega) hn

theorem decode_encode_emk {n : BitVec 4} (p : Pad) (hn : indexOk n = true) :
    decode (encode (.emk p n)) = .ok (.emk p n) := by
  have hw := toNat_encode_emk p n
  have hbit := p.toBit.toNat_lt
  rw [decode_opcode_emk (by omega)]
  exact decodePN_of_operands .emk (by omega) hn

theorem decode_encode_jmp (t : RomAddr) : decode (encode (.jmp t)) = .ok (.jmp t) := by
  have hw := toNat_encode_jmp t
  have ht := t.isLt
  have htarget : fieldT (encode (.jmp t)) = t := BitVec.eq_of_toNat_eq (by rw [toNat_fieldT]; omega)
  rw [decode_formatJ (by omega), htarget]

/-- Settles O1: the micro-ops without operands are eight closed words; the operands of the others are read off the
numbers of their words. -/
theorem decodeOfEncodeIsTheInstruction : Obligations.DecodeOfEncodeIsTheInstruction := by
  intro i hwf
  cases i with
  | smp p n => exact decode_encode_smp p hwf
  | emk p n => exact decode_encode_emk p hwf
  | jmp t => exact decode_encode_jmp t
  | init | clkl | clkh | stbl | stbh | sync | chkc | wait => rfl

/-- Settles O4: each of the twelve is the word of its micro-op. -/
theorem writtenOutWordsDecode : Obligations.WrittenOutWordsDecode :=
  have h := decodeOfEncodeIsTheInstruction
  ⟨h .init rfl, h .clkl rfl, h .clkh rfl, h .stbl rfl, h .stbh rfl, h (.smp .pad0 11#4) rfl, h (.smp .pad1 0#4) rfl,
    h (.emk .pad1 11#4) rfl, h .sync rfl, h .chkc rfl, h .wait rfl, h (.jmp 4095#12) rfl⟩

/-! ## Illegal words -/

/-- R106(a) to (d), on the number of the word. -/
def IllegalNumber (w : Nat) : Prop :=
  (w / 4096 = 0 ∨ 9 ≤ w / 4096) ∨
  ((w / 4096 = 1 ∨ w / 4096 = 5 ∨ w / 4096 = 6 ∨ w / 4096 = 7) ∧ w % 4096 ≠ 0) ∨
  (w / 4096 = 2 ∧ (w / 512 % 8 ≠ 0 ∨ w / 2 % 128 ≠ 0)) ∨
  ((w / 4096 = 3 ∨ w / 4096 = 4) ∧ (w / 512 % 8 ≠ 0 ∨ w / 16 % 16 ≠ 0 ∨ 12 ≤ w % 16))

/-- R106(b). -/
theorem decodeZ_error {w : Word} (h : w.toNat % 4096 ≠ 0) (i : Instr) : decodeZ w i = .error .formatZ :=
  if_neg (mt (fieldT_eq_zero w).mp h)

/-- R106(c). -/
theorem decodeW_error {w : Word} (h : w.toNat / 512 % 8 ≠ 0 ∨ w.toNat / 2 % 128 ≠ 0) :
    decodeW w = .error .formatW := by
  refine if_neg ?_
  rw [fieldHigh_eq_zero, fieldMidW_eq_zero]
  omega

/-- R106(d): a bit that format PN keeps at 0, or else a reserved index. -/
theorem decodePN_error {w : Word} (h : w.toNat / 512 % 8 ≠ 0 ∨ w.toNat / 16 % 16 ≠ 0 ∨ 12 ≤ w.toNat % 16)
    (mk : Pad → BitVec 4 → Instr) : ∃ why, decodePN w mk = .error why := by
  by_cases hzero : fieldHigh w = 0#3 ∧ fieldMidPN w = 0#4
  · have hindex : ¬ indexOk (fieldN w) = true := by
      rw [fieldHigh_eq_zero, fieldMidPN_eq_zero] at hzero
      rw [indexOk_iff, toNat_fieldN]
      omega
    exact ⟨.index, by rw [decodePN, if_pos hzero, if_neg hindex]⟩
  · exact ⟨.formatPN, if_neg hzero⟩

/-- What R106 calls illegal, the decoder refuses. -/
theorem decode_illegal {w : Word} (h : IllegalNumber w.toNat) : ∃ why, decode w = .error why := by
  obtain hop | ⟨hop, hbits⟩ | ⟨hop, hbits⟩ | ⟨hop | hop, hbits⟩ := h
  · exact ⟨_, decode_reservedOp hop⟩
  · obtain ⟨i, hi⟩ := decode_formatZ hop
    exact ⟨_, hi.trans (decodeZ_error hbits i)⟩
  · exact ⟨_, (decode_formatW hop).trans (decodeW_error hbits)⟩
  · rw [decode_opcode_smp hop]
    exact decodePN_error hbits .smp
  · rw [decode_opcode_emk hop]
    exact decodePN_error hbits .emk

/-! ## Legal words -/

/-- The words that R106 leaves legal, by their numbers: the eight without operands, SMP and EMK, and JMP. -/
theorem legal_cases {w : Nat} (hw : w < 65536) (h : ¬ IllegalNumber w) :
    (w = 0x1000 ∨ w = 0x2000 ∨ w = 0x2001 ∨ w = 0x2100 ∨ w = 0x2101 ∨ w = 0x5000 ∨ w = 0x6000 ∨ w = 0x7000) ∨
    (w % 16 ≤ 11 ∧
      (w = 0x3000 + 256 * (w / 256 % 2) + w % 16 ∨ w = 0x4000 + 256 * (w / 256 % 2) + w % 16)) ∨
    w = 0x8000 + w % 4096 := by
  unfold IllegalNumber at h
  omega

/-- What R106 leaves legal is the word of a well-formed micro-op. -/
theorem exists_encode_of_legal {w : Word} (h : ¬ IllegalNumber w.toNat) :
    ∃ i : Instr, i.wf = true ∧ encode i = w := by
  have hnum : ∀ i : Instr, w.toNat = (encode i).toNat → encode i = w := fun _ hi => BitVec.eq_of_toNat_eq hi.symm
  have hindex : w.toNat % 16 ≤ 11 → indexOk (fieldN w) = true := by
    rw [indexOk_iff, toNat_fieldN]
    exact id
  rcases legal_cases w.isLt h with (hw | hw | hw | hw | hw | hw | hw | hw) | ⟨hn, hw | hw⟩ | hw
  · exact ⟨.init, rfl, hnum .init hw⟩
  · exact ⟨.clkl, rfl, hnum .clkl hw⟩
  · exact ⟨.clkh, rfl, hnum .clkh hw⟩
  · exact ⟨.stbl, rfl, hnum .stbl hw⟩
  · exact ⟨.stbh, rfl, hnum .stbh hw⟩
  · exact ⟨.sync, rfl, hnum .sync hw⟩
  · exact ⟨.chkc, rfl, hnum .chkc hw⟩
  · exact ⟨.wait, rfl, hnum .wait hw⟩
  · refine ⟨.smp (Pad.ofBit (fieldP w)) (fieldN w), hindex hn, hnum _ ?_⟩
    rwa [toNat_encode_smp, Pad.toBit_ofBit, toNat_fieldP, toNat_fieldN]
  · refine ⟨.emk (Pad.ofBit (fieldP w)) (fieldN w), hindex hn, hnum _ ?_⟩
    rwa [toNat_encode_emk, Pad.toBit_ofBit, toNat_fieldP, toNat_fieldN]
  · refine ⟨.jmp (fieldT w), rfl, hnum _ ?_⟩
    rwa [toNat_encode_jmp, toNat_fieldT]

/-- Settles O2: a word that decodes is legal, so it is the word of a micro-op, and that micro-op is what it decodes
to. -/
theorem decodedWordReencodesToItself : Obligations.DecodedWordReencodesToItself := by
  intro w i h
  have hlegal : ¬ IllegalNumber w.toNat := by
    intro hill
    obtain ⟨why, hwhy⟩ := decode_illegal hill
    rw [h] at hwhy
    cases hwhy
  obtain ⟨j, hwf, rfl⟩ := exists_encode_of_legal hlegal
  obtain rfl : j = i := Except.ok.inj ((decodeOfEncodeIsTheInstruction j hwf).symm.trans h)
  exact ⟨hwf, rfl⟩

/-! ## The opcode table -/

theorem encode_matches_row (i : Instr) : Laws.OpcodeRow.Statement i := by
  cases i with
  | init => exact Laws.OpcodeRow.init
  | clkl => exact Laws.OpcodeRow.clkl
  | clkh => exact Laws.OpcodeRow.clkh
  | stbl => exact Laws.OpcodeRow.stbl
  | stbh => exact Laws.OpcodeRow.stbh
  | smp p n => exact Laws.OpcodeRow.smp p n
  | emk p n => exact Laws.OpcodeRow.emk p n
  | sync => exact Laws.OpcodeRow.sync
  | chkc => exact Laws.OpcodeRow.chkc
  | wait => exact Laws.OpcodeRow.wait
  | jmp t => exact Laws.OpcodeRow.jmp t

/-- Two rows of the table whose patterns agree on the bits that both masks fix are one row. -/
theorem opcodeTable_disjoint :
    ∀ r ∈ opcodeTable, ∀ r' ∈ opcodeTable, r.pattern &&& r'.mask = r'.pattern &&& r.mask → r = r' := by
  decide

/-- No word matches two rows of the table. -/
theorem row_unique {w : Word} {r r' : OpcodeRow} (hr : r ∈ opcodeTable) (hr' : r' ∈ opcodeTable)
    (h : w &&& r.mask = r.pattern) (h' : w &&& r'.mask = r'.pattern) : r = r' := by
  refine opcodeTable_disjoint r hr r' hr' ?_
  rw [← h, ← h', BitVec.and_assoc, BitVec.and_assoc, BitVec.and_comm r.mask]

/-- Settles O3: the decoder refuses what R106 calls illegal; every other word is the word of a well-formed micro-op,
which has its row, and no word has two. -/
theorem illegalWordsAreRefusedAndOthersHaveOneRow : Obligations.IllegalWordsAreRefusedAndOthersHaveOneRow := by
  intro w
  change (IllegalNumber w.toNat → _) ∧ (¬ IllegalNumber w.toNat → _)
  constructor
  · intro hill
    obtain ⟨why, hwhy⟩ := decode_illegal hill
    exact ⟨⟨why, hwhy⟩, fun s hs hw => ⟨why, Machine.step_illegal hs hw hwhy⟩⟩
  · intro hlegal
    obtain ⟨i, hwf, rfl⟩ := exists_encode_of_legal hlegal
    obtain ⟨hmem, hname, hmatch⟩ := encode_matches_row i hwf
    exact ⟨i, decodeOfEncodeIsTheInstruction i hwf, hmem, hmatch, hname,
      fun r hr hrw => row_unique hr hmem hrw hmatch⟩

end Sys2Proof
end

section
/-! The sequencer step and the pin micro-ops one by one (40_pin_sequencer.md R115, R120 to R124): a step runs the
decoded micro-op, straight-line code in ROM is its listing executed in order, and each pin write and each sample is one
record. -/

namespace Sys2Proof.Machine

/-! ## The step (R115) -/

/-- Settles O9: a ready state passes the boundary, fetches and executes; without a kill laid down the boundary changes
nothing. -/
theorem stepRunsTheDecodedInstruction : Obligations.StepRunsTheDecodedInstruction := by
  intro s w i hready hfetch hdecode
  have hstep : step s = exec i (passBoundary s) := step_runs hready hfetch hdecode
  exact ⟨hstep, fun hkill => by rw [hstep, passBoundary_of_no_kill hkill]⟩

/-- A step on the word of a well-formed micro-op is that micro-op, with no kill laid down. -/
theorem step_of_encoded {i : Instr} {s : State} (hc : s.cfg.accepted = true) (hk : s.env.kill = none)
    (hm : s.mode ≠ .terminated) (hwf : i.wf = true) (hf : s.cfg.rom[s.upc.toNat]? = some (encode i)) :
    step s = exec i s :=
  (stepRunsTheDecodedInstruction s _ i ⟨hc, hm, killDue_of_none hk⟩ hf (decodeOfEncodeIsTheInstruction i hwf)).2 hk

theorem not_terminated_of_exec {i : Instr} {s t : State} (h : exec i s = .next t) : s.mode ≠ .terminated := by
  rw [(exec_next_effect h).1]
  cases i <;> nofun

/-- A listing that reaches a running state starts in one. -/
theorem not_terminated_of_execAll {ops : List Instr} {s t : State} (h : execAll ops s = .next t)
    (ht : t.mode ≠ .terminated) : s.mode ≠ .terminated := by
  cases ops with
  | nil =>
    cases h
    exact ht
  | cons i rest =>
    obtain ⟨u, hu, _⟩ := execAll_cons_next h
    exact not_terminated_of_exec hu

theorem toNat_add_one (a : RomAddr) (h : a.toNat + 1 ≠ 4096) : (a + 1#12).toNat = a.toNat + 1 := by
  have hone : (1#12).toNat = 1 := rfl
  rw [BitVec.toNat_add, hone]
  omega

/-- A micro-op other than JMP that does not end the run moves to the next address, as a number. -/
theorem exec_toNat_upc {i : Instr} {s t : State} (hj : ∀ a, i ≠ .jmp a) (h : exec i s = .next t)
    (ht : t.mode ≠ .terminated) : t.upc.toNat = s.upc.toNat + 1 := by
  obtain ⟨hupc, hlast⟩ := ((upcAdvancesHoldsOrJumps.1 i s t h).2 hj).2 ht
  rw [hupc, toNat_add_one s.upc hlast]

/-- Settles O46: by induction on the listing. A step on its first word is its first micro-op, after which the rest of
the listing stands at the next address. -/
theorem steppingThroughRomExecutesTheListing : Obligations.SteppingThroughRomExecutesTheListing := by
  intro ops
  induction ops with
  | nil =>
    intro s t _ _ _ _ _ h _
    exact h
  | cons i rest ih =>
    intro s t hc hk hm hops hrom h ht
    obtain ⟨u, hu, hrest⟩ := execAll_cons_next h
    obtain ⟨⟨hwf, hj⟩, hops⟩ := List.forall_mem_cons.mp hops
    have hum : u.mode ≠ .terminated := not_terminated_of_execAll hrest ht
    have hupc : u.upc.toNat = s.upc.toNat + 1 := exec_toNat_upc hj hu hum
    have hcfg : u.cfg = s.cfg := exec_keeps_cfg hu
    have hkill : u.env.kill = none := (exec_ownFieldsOnly hu).kill.trans hk
    have hrom' : ∀ k, k < rest.length → u.cfg.rom[u.upc.toNat + k]? = (rest.map encode)[k]? := by
      intro k hlt
      have hnext := hrom (k + 1) (Nat.succ_lt_succ hlt)
      rwa [hcfg, hupc, Nat.add_assoc, Nat.add_comm 1 k]
    have hstep : step s = .next u := (step_of_encoded hc hk hm hwf (hrom 0 (Nat.succ_pos _))).trans hu
    calc Sys2Proof.core.run (rest.length + 1) s
      _ = Sys2Proof.core.run rest.length u := run_succ hstep
      _ = .next t := ih u t (hcfg ▸ hc) hkill hum hops hrom' hrest ht

/-! ## The pin micro-ops -/

/-- What the block does to its pins in a decode of pad p: the four pin writes, and the samples of pad p's line
(R120 to R124). -/
inductive PinOp (p : Pad) : Instr → Prop where
  | clkh : PinOp p .clkh
  | clkl : PinOp p .clkl
  | stbh : PinOp p .stbh
  | stbl : PinOp p .stbl
  | smp (i : Fin 12) : PinOp p (.smp p (BitVec.ofNat 4 i.val))

theorem PinOp.wf {p : Pad} {i : Instr} (h : PinOp p i) : i.wf = true := by
  cases h with
  | smp i => exact smp_wf p i
  | clkh | clkl | stbh | stbl => rfl

theorem PinOp.modeOf_eq {p : Pad} {i : Instr} (h : PinOp p i) : modeOf i = .polling := by cases h <;> rfl

theorem PinOp.ne_jmp {p : Pad} {i : Instr} (h : PinOp p i) (a : RomAddr) : i ≠ .jmp a := by cases h <;> nofun

/-- The effect of SMP at an index that a word can hold. -/
theorem effect_smp_ofNat (p : Pad) (i : Fin 12) (s : State) :
    effect (.smp p (BitVec.ofNat 4 i.val)) s = sampleBit p i s := by
  have hi : (BitVec.ofNat 4 i.val).toNat = i.val := by
    rw [BitVec.toNat_ofNat]
    omega
  simp [effect, hi]

theorem sampleBit_mask (p : Pad) (i : Fin 12) (s : State) :
    (sampleBit p i s).mask p = writeBit (s.mask p) i.val (pressedBit (s.nextLevel p)) := by cases p <;> rfl

theorem sampleBit_mask_other (p : Pad) (i : Fin 12) (s : State) :
    (sampleBit p i s).mask p.other = s.mask p.other := by cases p <;> rfl

theorem sampleBit_env (p : Pad) (i : Fin 12) (s : State) :
    (sampleBit p i s).env = s.env.setData p (s.env.data p).tail := by rw [sampleBit_eq]

theorem sampleBit_trace (p : Pad) (i : Fin 12) (s : State) :
    (sampleBit p i s).trace = s.trace ++ [.rd (s.cfg.pin (.data p)) (s.nextLevel p)] := by rw [sampleBit_eq]

theorem pressedBit_eq (l : Level) : pressedBit l = decide (l = .low) := by cases l <;> rfl

/-- Bit i of a sampled mask is the inverted level; every other bit is the old one (R124). -/
theorem getLsbD_sampleBit (p : Pad) (i : Fin 12) (s : State) {k : Nat} (hk : k < 16) :
    ((sampleBit p i s).mask p).getLsbD k =
      if k = i.val then decide (s.nextLevel p = .low) else (s.mask p).getLsbD k := by
  have hi := i.isLt
  rw [sampleBit_mask, getLsbD_writeBit _ _ (by omega) hk, pressedBit_eq]

/-- t has come from s by pin micro-ops of pad p: what they may write are the two output registers, pad p's mask and
port, TRACE and upc (R120 to R124). -/
structure PinFrame (p : Pad) (s t : State) : Prop where
  rest : { t with
    clkQ := s.clkQ, stbQ := s.stbQ, mask0 := s.mask0, mask1 := s.mask1, trace := s.trace, env := s.env,
    upc := s.upc } = s
  mask_other : t.mask p.other = s.mask p.other
  env : t.env = s.env.setData p (t.env.data p)

theorem PinFrame.refl (p : Pad) (s : State) : PinFrame p s s where
  rest := rfl
  mask_other := rfl
  env := by cases p <;> rfl

theorem PinFrame.withUpc {p : Pad} {s t : State} (h : PinFrame p s t) (a : RomAddr) :
    PinFrame p s { t with upc := a } := { h with }

theorem PinFrame.mode {p : Pad} {s t : State} (h : PinFrame p s t) : t.mode = s.mode := (congrArg State.mode h.rest :)

theorem PinFrame.cfg {p : Pad} {s t : State} (h : PinFrame p s t) : t.cfg = s.cfg := (congrArg State.cfg h.rest :)

theorem PinFrame.failCnt {p : Pad} {s t : State} (h : PinFrame p s t) : t.failCnt = s.failCnt :=
  (congrArg State.failCnt h.rest :)

theorem PinFrame.sinkOpen {p : Pad} {s t : State} (h : PinFrame p s t) : t.sinkOpen = s.sinkOpen :=
  (congrArg State.sinkOpen h.rest :)

theorem PinFrame.pinMode {p : Pad} {s t : State} (h : PinFrame p s t) (role : PinRole) :
    t.pinMode role = s.pinMode role := (congrArg (State.pinMode · role) h.rest :)

/-- One more pin micro-op. -/
theorem PinFrame.effect_pinOp {p : Pad} {s t : State} {i : Instr} (h : PinFrame p s t) (hi : PinOp p i) :
    PinFrame p s (effect i t) := by
  cases hi with
  | clkh | clkl | stbh | stbl => exact { h with }
  | smp i =>
    rw [effect_smp_ofNat]
    refine ⟨?_, (sampleBit_mask_other p i t).trans h.mask_other, ?_⟩
    · simpa [sampleBit_eq] using h.rest
    · rw [sampleBit_env, h.env]
      cases p <;> rfl

/-- A pin micro-op in POLLING below the last address has its effect and moves on to the next address. -/
theorem PinOp.exec_polling {p : Pad} {s : State} {i : Instr} (hi : PinOp p i) (hm : s.mode = .polling)
    (hu : s.upc ≠ 4095#12) : exec i s = .next { effect i s with upc := s.upc + 1#12 } := by
  have hmode : (effect i s).mode ≠ .terminated := by
    rw [((PinFrame.refl p s).effect_pinOp hi).mode, hm]
    nofun
  rw [exec_of_mode hi.wf hi.ne_jmp (hm.trans hi.modeOf_eq.symm), complete_running hu hmode, (effect_keeps i s).2.1]

theorem PinOp.exec_not_polling {p : Pad} {s : State} {i : Instr} (hi : PinOp p i) (hm : s.mode ≠ .polling) :
    exec i s = .fault .mode :=
  exec_of_wrong_mode hi.wf (hi.modeOf_eq.symm ▸ hm)

/-- Settles O14: the two words are those of the encoder, and the effect of each micro-op is one record. -/
theorem clockMicroOpsWriteTheClockLine : Obligations.ClockMicroOpsWriteTheClockLine := by
  have hhigh : PinOp .pad0 .clkh := .clkh
  have hlow : PinOp .pad0 .clkl := .clkl
  refine ⟨decodeOfEncodeIsTheInstruction .clkh rfl, decodeOfEncodeIsTheInstruction .clkl rfl, fun s => ⟨?_, ?_⟩⟩
  · exact fun hm hu => ⟨hhigh.exec_polling hm hu, hlow.exec_polling hm hu⟩
  · exact fun hm => ⟨hhigh.exec_not_polling hm, hlow.exec_not_polling hm⟩

/-- Settles O15: as for the clock line. -/
theorem strobeMicroOpsWriteTheStrobeLine : Obligations.StrobeMicroOpsWriteTheStrobeLine := by
  have hhigh : PinOp .pad0 .stbh := .stbh
  have hlow : PinOp .pad0 .stbl := .stbl
  refine ⟨decodeOfEncodeIsTheInstruction .stbh rfl, decodeOfEncodeIsTheInstruction .stbl rfl, fun s => ⟨?_, ?_⟩⟩
  · exact fun hm hu => ⟨hhigh.exec_polling hm hu, hlow.exec_polling hm hu⟩
  · exact fun hm => ⟨hhigh.exec_not_polling hm, hlow.exec_not_polling hm⟩

/-- Settles O34: a next state is the effect but for upc, and the effect of a pin write is its register and its event. -/
theorem pinWritesChangeNothingElse : Obligations.PinWritesChangeNothingElse := by
  intro s t
  constructor
  · rintro (h | h) <;> obtain ⟨_, a, rfl⟩ := exec_next_effect h <;> rfl
  · rintro (h | h) <;> obtain ⟨_, a, rfl⟩ := exec_next_effect h <;> rfl

theorem encode_smp_ofNat (p : Pad) (i : Fin 12) :
    BitVec.ofNat 16 (0x3000 + 256 * padNumber p + i.val) = encode (.smp p (BitVec.ofNat 4 i.val)) := by
  have hpad : padNumber p = p.toBit.toNat := by cases p <;> rfl
  have hbit := p.toBit.toNat_lt
  apply BitVec.eq_of_toNat_eq
  rw [toNat_encode_smp, BitVec.toNat_ofNat, BitVec.toNat_ofNat, hpad]
  omega

/-- Settles O17: the word is the encoder's, the next state is the sampled one, whose mask is read bit by bit, and an
index from 12 on is ill formed. -/
theorem sampleStoresTheInvertedLevel : Obligations.SampleStoresTheInvertedLevel := by
  intro p i s
  have hpin : PinOp p (.smp p (BitVec.ofNat 4 i.val)) := .smp i
  refine ⟨?_, fun hm hu => ⟨_, hpin.exec_polling hm hu, ?_⟩, hpin.exec_not_polling, fun n hn => ?_⟩
  · rw [encode_smp_ofNat]
    exact decodeOfEncodeIsTheInstruction _ hpin.wf
  · rw [effect_smp_ofNat]
    refine ⟨fun k hk => getLsbD_sampleBit p i s hk, sampleBit_mask_other p i s, sampleBit_trace p i s, rfl,
      sampleBit_env p i s, ?_⟩
    simp [sampleBit_eq]
  · exact exec_of_ill_formed (decide_eq_false (by omega))

end Sys2Proof.Machine
end

section
/-! One decode (30_encoding.md R109; 40_pin_sequencer.md R125 to R127): its micro-ops run to the end wherever they fit,
and along them bit k of the mask, the port and TRACE follow the k-th level read. -/

namespace Sys2Proof.Machine

/-! ## Listings of pin micro-ops -/

/-- The effects of a listing, one after the other. -/
def effects (ops : List Instr) (s : State) : State := ops.foldl (fun u i => effect i u) s

theorem effects_cons (i : Instr) (rest : List Instr) (s : State) :
    effects (i :: rest) s = effects rest (effect i s) := rfl

theorem effects_append (a b : List Instr) (s : State) : effects (a ++ b) s = effects b (effects a s) :=
  List.foldl_append ..

/-- The address takes no part in the effects of a listing. -/
theorem effects_withUpc (ops : List Instr) (a : RomAddr) (s : State) :
    effects ops { s with upc := a } = { effects ops s with upc := a } := by
  induction ops generalizing s with
  | nil => rfl
  | cons i rest ih =>
    have hi : effect i { s with upc := a } = { effect i s with upc := a } :=
      effect_elsewhere (fun u => { u with upc := a }) i s (.inl ⟨a, rfl⟩)
    rw [effects_cons, hi, ih, effects_cons]

/-- Where a listing leads is its effects, with upc moved. -/
theorem execAll_next_effects {ops : List Instr} {s t : State} (h : execAll ops s = .next t) :
    ∃ a, t = { effects ops s with upc := a } := by
  induction ops generalizing s with
  | nil =>
    cases h
    exact ⟨_, rfl⟩
  | cons i rest ih =>
    obtain ⟨u, hu, hrest⟩ := execAll_cons_next h
    obtain ⟨_, a, rfl⟩ := exec_next_effect hu
    obtain ⟨b, rfl⟩ := ih hrest
    exact ⟨b, by rw [effects_withUpc, effects_cons]⟩

theorem effects_pinFrame {p : Pad} {ops : List Instr} (hops : ∀ i ∈ ops, PinOp p i) {s t : State}
    (h : PinFrame p s t) : PinFrame p s (effects ops t) := by
  induction ops generalizing t with
  | nil => exact h
  | cons i rest ih =>
    obtain ⟨hi, hrest⟩ := List.forall_mem_cons.mp hops
    exact ih hrest (h.effect_pinOp hi)

/-- In POLLING a listing of pin micro-ops with room in the address space runs to its end. -/
theorem execAll_pinOps {p : Pad} {ops : List Instr} (hops : ∀ i ∈ ops, PinOp p i) {s : State}
    (hm : s.mode = .polling) (hfit : s.upc.toNat + ops.length ≤ 4095) :
    execAll ops s = .next { effects ops s with upc := s.upc + BitVec.ofNat 12 ops.length } := by
  induction ops generalizing s with
  | nil =>
    simp only [execAll, effects, List.foldl_nil, List.length_nil, BitVec.add_zero]
  | cons i rest ih =>
    obtain ⟨hi, hrest⟩ := List.forall_mem_cons.mp hops
    rw [List.length_cons] at hfit
    have hroom : s.upc.toNat + 1 ≠ 4096 := by omega
    have hlast : s.upc ≠ 4095#12 := mt (toNat_succ_eq_4096_iff s.upc).mpr hroom
    have hmode : (effect i s).mode = .polling := ((PinFrame.refl p s).effect_pinOp hi).mode.trans hm
    have hnext : (s.upc + 1#12).toNat = s.upc.toNat + 1 := toNat_add_one s.upc hroom
    have hsum : s.upc + 1#12 + BitVec.ofNat 12 rest.length = s.upc + BitVec.ofNat 12 (rest.length + 1) := by
      rw [BitVec.add_assoc, ← BitVec.ofNat_add, Nat.add_comm]
    have htail := ih hrest (s := { effect i s with upc := s.upc + 1#12 }) hmode (by dsimp only; omega)
    rw [execAll_cons (hi.exec_polling hm hlast), htail, effects_withUpc, effects_cons, List.length_cons, ← hsum]

/-! ## The micro-ops of a decode -/

/-- The part of a decode of pad p up to its (n + 1)-th sample (R109). -/
def samplingOps (p : Pad) (n : Nat) : List Instr :=
  pulseStb ++ [.smp p 0#4] ++ (List.range n).flatMap fun k => shiftAndSample p (BitVec.ofNat 4 (k + 1))

theorem samplingOps_succ (p : Pad) (n : Nat) :
    samplingOps p (n + 1) = samplingOps p n ++ shiftAndSample p (BitVec.ofNat 4 (n + 1)) := by
  simp [samplingOps, List.range_succ]

theorem decodeOps_eq (tc : Bool) (p : Pad) : decodeOps tc p = samplingOps p 11 ++ trailingPulse tc := rfl

theorem pinOp_pulseStb (p : Pad) : ∀ i ∈ pulseStb, PinOp p i :=
  List.forall_mem_cons.mpr ⟨.stbh, List.forall_mem_singleton.mpr .stbl⟩

theorem pinOp_pulseClk (p : Pad) : ∀ i ∈ pulseClk, PinOp p i :=
  List.forall_mem_cons.mpr ⟨.clkh, List.forall_mem_singleton.mpr .clkl⟩

theorem pinOp_samplingOps (p : Pad) {n : Nat} (hn : n < 12) : ∀ i ∈ samplingOps p n, PinOp p i := by
  induction n with
  | zero =>
    have hfirst : PinOp p (.smp p 0#4) := .smp 0
    exact List.forall_mem_append.mpr ⟨List.forall_mem_append.mpr
      ⟨pinOp_pulseStb p, List.forall_mem_singleton.mpr hfirst⟩, nofun⟩
  | succ n ih =>
    rw [samplingOps_succ]
    exact List.forall_mem_append.mpr ⟨ih (by omega), List.forall_mem_append.mpr
      ⟨pinOp_pulseClk p, List.forall_mem_singleton.mpr (.smp ⟨n + 1, hn⟩)⟩⟩

theorem pinOp_decodeOps (tc : Bool) (p : Pad) : ∀ i ∈ decodeOps tc p, PinOp p i := by
  rw [decodeOps_eq]
  refine List.forall_mem_append.mpr ⟨pinOp_samplingOps p (by omega), ?_⟩
  cases tc with
  | false => nofun
  | true => exact pinOp_pulseClk p

theorem length_decodeOps (tc : Bool) (p : Pad) : (decodeOps tc p).length = decodeLength tc := by cases tc <;> rfl

/-! ## Along the samples -/

theorem nextLevel_eq_levels (s : State) (p : Pad) : s.nextLevel p = s.levels p 0 := Port.head_eq_answer ..

theorem levels_sampleBit (p : Pad) (i : Fin 12) (s : State) (k : Nat) :
    (sampleBit p i s).levels p k = s.levels p (k + 1) := by
  rw [State.levels, sampleBit_env, Env.setData_data, Port.answer_tail, State.levels]

/-- What the first n + 1 samples of a decode, reading the levels l, append to TRACE (R127). -/
def samplingTrace (c : Config) (p : Pad) (l : Nat → Level) (n : Nat) : List Event :=
  Event.wr c.pinStb .high :: .wr c.pinStb .low :: .rd (c.pin (.data p)) (l 0) ::
    (List.range n).flatMap fun k => [.wr c.pinClk .high, .wr c.pinClk .low, .rd (c.pin (.data p)) (l (k + 1))]

theorem samplingTrace_succ (c : Config) (p : Pad) (l : Nat → Level) (n : Nat) :
    samplingTrace c p l (n + 1) = samplingTrace c p l n ++
      [.wr c.pinClk .high, .wr c.pinClk .low, .rd (c.pin (.data p)) (l (n + 1))] := by
  simp [samplingTrace, List.range_succ]

theorem decodeTrace_eq (c : Config) (tc : Bool) (p : Pad) (l : Nat → Level) :
    decodeTrace c tc p l =
      samplingTrace c p l 11 ++ if tc then [.wr c.pinClk .high, .wr c.pinClk .low] else [] := rfl

/-- t is where a decode of pad p that began in s stands after its (n + 1)-th sample, but for upc. -/
structure Sampled (p : Pad) (n : Nat) (s t : State) : Prop where
  frame : PinFrame p s t
  bits : ∀ k, k ≤ n → (t.mask p).getLsbD k = decide (s.levels p k = .low)
  clean : maskClean (s.mask p) → maskClean (t.mask p)
  levels : ∀ k, t.levels p k = s.levels p (k + (n + 1))
  trace : t.trace = s.trace ++ samplingTrace s.cfg p (s.levels p) n
  stbQ : t.stbQ = .low
  clkQ : 0 < n → t.clkQ = .low

theorem sampled_zero (p : Pad) (s : State) : Sampled p 0 s (effects (samplingOps p 0) s) := by
  let u := driveStb .low (driveStb .high s)
  have ht : effects (samplingOps p 0) s = sampleBit p 0 u := effect_smp_ofNat p 0 u
  have hmask : u.mask p = s.mask p := by cases p <;> rfl
  have hlevel : u.nextLevel p = s.levels p 0 := nextLevel_eq_levels s p
  refine ⟨effects_pinFrame (pinOp_samplingOps p (by omega)) (.refl p s), ?_, ?_, ?_, ?_, ?_, nofun⟩ <;> rw [ht]
  · intro k hk
    obtain rfl : k = 0 := by omega
    rw [getLsbD_sampleBit p 0 u (by omega), hlevel]
    exact if_pos rfl
  · exact fun hs => sampleBit_maskClean 0 (hmask.symm ▸ hs)
  · exact levels_sampleBit p 0 u
  · rw [sampleBit_trace, hlevel]
    simp [u, driveStb_eq, samplingTrace]
  · rw [sampleBit_eq]
    cases p <;> rfl

/-- A clock pulse and a sample more. -/
theorem Sampled.succ {p : Pad} {n : Nat} {s t : State} (h : Sampled p n s t) (hn : n + 1 < 12) :
    Sampled p (n + 1) s (effects (shiftAndSample p (BitVec.ofNat 4 (n + 1))) t) := by
  let u := driveClk .low (driveClk .high t)
  let i : Fin 12 := ⟨n + 1, hn⟩
  have ht : effects (shiftAndSample p (BitVec.ofNat 4 (n + 1))) t = sampleBit p i u := effect_smp_ofNat p i u
  have hmask : u.mask p = t.mask p := by cases p <;> rfl
  have hlevel : u.nextLevel p = s.levels p (n + 1) := by
    have hread := (nextLevel_eq_levels t p).trans (h.levels 0)
    rwa [Nat.zero_add] at hread
  rw [ht]
  refine ⟨?_, ?_, ?_, ?_, ?_, ?_, ?_⟩
  · exact effect_smp_ofNat p i u ▸ ((h.frame.effect_pinOp .clkh).effect_pinOp .clkl).effect_pinOp (.smp i)
  · intro k hk
    rw [getLsbD_sampleBit p i u (by omega), hlevel, hmask]
    by_cases hki : k = n + 1
    · subst hki
      exact if_pos rfl
    · exact (if_neg hki).trans (h.bits k (by omega))
  · exact fun hs => sampleBit_maskClean i (hmask.symm ▸ h.clean hs)
  · intro k
    have hk : k + 1 + (n + 1) = k + (n + 1 + 1) := by omega
    rw [levels_sampleBit, ← hk]
    exact h.levels (k + 1)
  · rw [sampleBit_trace, hlevel, samplingTrace_succ]
    simp [u, driveClk_eq, h.trace, h.frame.cfg]
  · rw [sampleBit_eq]
    cases p <;> exact h.stbQ
  · intro _
    rw [sampleBit_eq]
    cases p <;> rfl

/-- The samples of a decode, one after the other. -/
theorem sampled (p : Pad) {n : Nat} (hn : n < 12) (s : State) : Sampled p n s (effects (samplingOps p n) s) := by
  induction n with
  | zero => exact sampled_zero p s
  | succ n ih =>
    rw [samplingOps_succ, effects_append]
    exact (ih (by omega)).succ hn

/-! ## The number a mask stands for -/

/-- The n lowest binary digits of a number. -/
theorem mod_two_pow_eq_sum (x n : Nat) :
    x % 2 ^ n = ((List.range n).map fun k => if x.testBit k = true then 2 ^ k else 0).sum := by
  induction n with
  | zero => rw [pow_zero, Nat.mod_one, List.range_zero, List.map_nil, List.sum_nil]
  | succ n ih =>
    rw [Nat.mod_pow_succ, ← Nat.toNat_testBit, List.range_succ, List.map_append, List.sum_append, ← ih]
    cases hbit : x.testBit n <;> simp [hbit]

/-- Bits 12 to 15 of a mask are 0 when its number is below 4096. -/
theorem toNat_lt_of_maskClean {m : Mask} (h : maskClean m) : m.toNat < 2 ^ 12 := by
  have hhigh : (m.extractLsb' 12 4).toNat = 0 := congrArg BitVec.toNat h
  have hlt := m.isLt
  rw [BitVec.extractLsb'_toNat, Nat.shiftRight_eq_div_pow] at hhigh
  omega

/-- A clean mask whose bits are the levels inverted is the sum of R125. -/
theorem toNat_eq_assembledValue {m : Mask} {l : Nat → Level} (hclean : maskClean m)
    (hbits : ∀ k, k ≤ 11 → m.getLsbD k = decide (l k = .low)) : m.toNat = assembledValue l := by
  rw [← Nat.mod_eq_of_lt (toNat_lt_of_maskClean hclean), mod_two_pow_eq_sum, assembledValue]
  congr 1
  refine List.map_congr_left fun k hk => ?_
  have hbit : m.toNat.testBit k = decide (l k = .low) := hbits k (Nat.le_of_lt_succ (List.mem_range.mp hk))
  simp only [hbit, decide_eq_true_eq]

/-! ## A decode as a whole -/

/-- t is where a decode of pad p that began in s leads, but for upc (R125, R127). -/
structure Decoded (tc : Bool) (p : Pad) (s t : State) : Prop where
  frame : PinFrame p s t
  mask : maskClean (s.mask p) → (t.mask p).toNat = assembledValue (s.levels p)
  trace : t.trace = s.trace ++ decodeTrace s.cfg tc p (s.levels p)
  stbQ : t.stbQ = .low
  clkQ : t.clkQ = .low

theorem Decoded.withUpc {tc : Bool} {p : Pad} {s t : State} (h : Decoded tc p s t) (a : RomAddr) :
    Decoded tc p s { t with upc := a } where
  frame := h.frame.withUpc a
  mask := by cases p <;> exact h.mask
  trace := h.trace
  stbQ := h.stbQ
  clkQ := h.clkQ

/-- After the twelve samples the mask is assembled; the trailing pulse, where there is one, writes the clock line
only. -/
theorem Sampled.decoded {p : Pad} {s t : State} (h : Sampled p 11 s t) (tc : Bool) :
    Decoded tc p s (effects (trailingPulse tc) t) := by
  have hmask : maskClean (s.mask p) → (t.mask p).toNat = assembledValue (s.levels p) := fun hs =>
    toNat_eq_assembledValue (h.clean hs) h.bits
  cases tc with
  | false =>
    refine ⟨h.frame, hmask, ?_, h.stbQ, h.clkQ (by omega)⟩
    change t.trace = _
    simp [decodeTrace_eq, h.trace]
  | true =>
    refine ⟨(h.frame.effect_pinOp .clkh).effect_pinOp .clkl, ?_, ?_, h.stbQ, rfl⟩
    · cases p <;> exact hmask
    · change (driveClk .low (driveClk .high t)).trace = _
      simp [driveClk_eq, decodeTrace_eq, h.trace, h.frame.cfg]

theorem decoded_effects (tc : Bool) (p : Pad) (s : State) : Decoded tc p s (effects (decodeOps tc p) s) := by
  rw [decodeOps_eq, effects_append]
  exact (sampled p (by omega) s).decoded tc

/-- Wherever a decode leads, it has decoded. -/
theorem execAll_decoded {tc : Bool} {p : Pad} {s t : State} (h : execAll (decodeOps tc p) s = .next t) :
    Decoded tc p s t := by
  obtain ⟨a, rfl⟩ := execAll_next_effects h
  exact (decoded_effects tc p s).withUpc a

/-- In POLLING a decode with room in the address space runs to its end. -/
theorem execAll_decodeOps {tc : Bool} {s : State} (p : Pad) (hm : s.mode = .polling)
    (hfit : s.upc.toNat + decodeLength tc ≤ 4095) :
    ∃ t, execAll (decodeOps tc p) s = .next t ∧ t.upc.toNat = s.upc.toNat + decodeLength tc := by
  refine ⟨_, execAll_pinOps (pinOp_decodeOps tc p) hm (by rwa [length_decodeOps]), ?_⟩
  rw [length_decodeOps, BitVec.toNat_add, BitVec.toNat_ofNat]
  omega

/-- Settles O18: the decode runs to its end, its twelve samples are the digits of the mask, and the pin micro-ops write
nothing else. -/
theorem decodeAssemblesTheMask : Obligations.DecodeAssemblesTheMask := by
  intro tc p s hm hfit hclean
  obtain ⟨t, ht, hupc⟩ := execAll_decodeOps p hm hfit
  obtain ⟨hframe, hmask, -, hstb, hclk⟩ := execAll_decoded ht
  exact ⟨t, ht, hmask hclean, hframe.mask_other, hframe.mode.trans hm, hupc, hclk, hstb, hframe.failCnt,
    hframe.sinkOpen, hframe.pinMode, hframe.cfg⟩

/-- Settles O19: each sample appends its clock pulse and its read, and the trailing pulse its two writes. -/
theorem decodeAppendsItsPinTrace : Obligations.DecodeAppendsItsPinTrace := by
  intro tc p s hm hfit
  obtain ⟨t, ht, -⟩ := execAll_decodeOps p hm hfit
  exact ⟨t, ht, (execAll_decoded ht).trace⟩

/-- Settles O20: both masks are the same sum of the same twelve levels. -/
theorem decodedMaskDependsOnItsOwnLineOnly : Obligations.DecodedMaskDependsOnItsOwnLineOnly := by
  intro tc tc' p s s' t t' hs hs' hlevels ht ht'
  have hsum : assembledValue (s.levels p) = assembledValue (s'.levels p) :=
    congrArg List.sum (List.map_congr_left fun k hk => by rw [hlevels k (List.mem_range.mp hk)])
  apply BitVec.eq_of_toNat_eq
  rw [(execAll_decoded ht).mask hs, (execAll_decoded ht').mask hs', hsum]

end Sys2Proof.Machine
end

section
/-! The Button Mapper (41_mapper.md R140 to R146): the pressed test bit by bit, the mapping function entry by entry,
and the two micro-ops that emit, as one emission each. -/

namespace Sys2Proof.Machine

/-! ## The pressed test (R140) -/

theorem pressed_iff (m sel : Mask) : pressed m sel = true ↔ m &&& sel = sel := beq_iff_eq

/-- A selector is pressed when the mask has each of its bits. -/
theorem pressed_iff_bits (m sel : Mask) :
    pressed m sel = true ↔ ∀ k, k < 16 → sel.getLsbD k = true → m.getLsbD k = true := by
  rw [pressed_iff]
  constructor
  · intro h k _ hk
    rw [← h, BitVec.getLsbD_and, Bool.and_eq_true] at hk
    exact hk.1
  · intro h
    apply BitVec.eq_of_getLsbD_eq
    intro k hk
    rw [BitVec.getLsbD_and, Bool.and_eq_right_iff_imp]
    exact h k hk

theorem pressed_single (m : Mask) {i : Nat} (hi : i < 16) : pressed m (1#16 <<< i) = m.getLsbD i := by
  rw [Bool.eq_iff_iff, pressed_iff_bits, ← BitVec.twoPow_eq]
  constructor
  · exact fun h => h i hi (by simp [hi])
  · intro h k _ hk
    obtain ⟨_, rfl⟩ : i < 16 ∧ i = k := by simpa using hk
    exact h

/-- No mask that keeps R48 has bits 12 to 15, so that a selector with one of them is never pressed. -/
theorem pressed_high_bit {m sel : Mask} (hm : maskClean m) {k : Nat} (h12 : 12 ≤ k) (h16 : k < 16)
    (hk : sel.getLsbD k = true) : pressed m sel = false := by
  rw [Bool.eq_false_iff, ne_eq, pressed_iff_bits]
  intro h
  have hzero : m.getLsbD k = false := (maskClean_iff m).mp hm k h12 h16
  exact Bool.false_ne_true (hzero.symm.trans (h k h16 hk))

/-- Settles O21: both readings of the test, from which the selectors of one bit, of a high bit and of none follow. -/
theorem pressedTestsTheWholeSelector : Obligations.PressedTestsTheWholeSelector := by
  intro m sel
  refine ⟨pressed_iff m sel, pressed_iff_bits m sel, fun _ => pressed_single m, ?_, ?_⟩
  · rintro hm ⟨k, h12, h16, hk⟩
    exact pressed_high_bit hm h12 h16 hk
  · exact (pressed_iff m 0#16).mpr BitVec.and_zero

/-! ## The mapping function (R141) -/

@[simp] theorem length_mapMask (m : Mask) (table : Vector TableEntry 12) : (mapMask m table).length = 12 := by
  rw [mapMask, List.length_map, Vector.length_toList]

theorem mapMask_getElem? (m : Mask) (table : Vector TableEntry 12) (j : Fin 12) :
    (mapMask m table)[j.val]? = some (table[j].key, pressed m table[j].sel) := by
  have hj : table.toList[j.val]? = some table[j] := by simp
  rw [mapMask, List.getElem?_map, hj, Option.map_some]

/-- Settles O22: MAP is a map over the table. -/
theorem mapHasOnePairPerEntryInOrder : Obligations.MapHasOnePairPerEntryInOrder :=
  fun m table => ⟨length_mapMask m table, mapMask_getElem? m table⟩

/-! ## One emission and its result (R144 to R146) -/

theorem emitAndCheck_eq (ev : SinkEvent) (s : State) :
    emitAndCheck ev s = writeResult s.nextEmit (emit ev s).2 := rfl

theorem emitAndCheck_ok (ev : SinkEvent) {s : State} (hr : s.nextEmit = .ok) :
    emitAndCheck ev s = { s with
      trace := s.trace ++ [ev.traced .ok], failCnt := 0, env := { s.env with emit := s.env.emit.tail } } := by
  rw [emitAndCheck_eq, hr, writeResult_ok, emit_snd, hr]

theorem emitAndCheck_fail_below (ev : SinkEvent) {s : State} (hr : s.nextEmit = .fail)
    (hl : ∀ limit, s.cfg.failLimit = some limit → s.failCnt + 1 < limit) :
    emitAndCheck ev s = { s with
      trace := s.trace ++ [ev.traced .fail, .log .emit], failCnt := s.failCnt + 1,
      env := { s.env with emit := s.env.emit.tail } } := by
  rw [emitAndCheck_eq, hr, writeResult_fail_below (emit ev s).2 hl, emit_snd, hr]
  simp

theorem emitAndCheck_fail_limit (ev : SinkEvent) {s : State} (hr : s.nextEmit = .fail)
    (hl : ∃ limit, s.cfg.failLimit = some limit ∧ limit ≤ s.failCnt + 1) :
    emitAndCheck ev s = { s with
      trace := s.trace ++ [ev.traced .fail, .log .emit, .log .emitLimit, .exit s.cfg.exitFail],
      failCnt := s.failCnt + 1, env := { s.env with emit := s.env.emit.tail }, reason := .emitLimit,
      exit := some s.cfg.exitFail, mode := .terminated } := by
  rw [emitAndCheck_eq, hr, writeResult_fail_limit (emit ev s).2 hl, emit_snd, hr]
  simp

/-! ## The micro-ops that emit -/

/-- Micro-op i, begun in s, is the emission of ev (R144, R145). -/
structure Emits (i : Instr) (ev : SinkEvent) (s : State) : Prop where
  wf : i.wf = true
  ne_jmp : ∀ a, i ≠ .jmp a
  modeOf_eq : modeOf i = .polling
  effect_eq : effect i s = emitAndCheck ev s

theorem effect_emk_ofNat (p : Pad) (j : Fin 12) (s : State) :
    effect (.emk p (BitVec.ofNat 4 j.val)) s = emitAndCheck (keyEvent p j s) s := by
  have hj : (BitVec.ofNat 4 j.val).toNat = j.val := by
    rw [BitVec.toNat_ofNat]
    omega
  simp [effect, hj]

theorem emits_sync (s : State) : Emits .sync .sync s := ⟨rfl, nofun, rfl, rfl⟩

theorem emits_emk (p : Pad) (j : Fin 12) (s : State) :
    Emits (.emk p (BitVec.ofNat 4 j.val)) (keyEvent p j s) s :=
  ⟨emk_wf p j, nofun, rfl, effect_emk_ofNat p j s⟩

section
variable {i : Instr} {ev : SinkEvent} {s : State}

theorem Emits.exec_polling (h : Emits i ev s) (hm : s.mode = .polling) :
    exec i s = complete s (emitAndCheck ev s) := by
  rw [exec_of_mode h.wf h.ne_jmp (hm.trans h.modeOf_eq.symm), h.effect_eq]

theorem Emits.exec_not_polling (h : Emits i ev s) (hm : s.mode ≠ .polling) : exec i s = .fault .mode :=
  exec_of_wrong_mode h.wf (h.modeOf_eq.symm ▸ hm)

/-- A write that succeeds clears FAILCNT. -/
theorem Emits.exec_ok (h : Emits i ev s) (hm : s.mode = .polling) (hr : s.nextEmit = .ok) (hu : s.upc ≠ 4095#12) :
    exec i s = .next { s with
      trace := s.trace ++ [ev.traced .ok], failCnt := 0, env := { s.env with emit := s.env.emit.tail },
      upc := s.upc + 1#12 } := by
  rw [h.exec_polling hm, emitAndCheck_ok ev hr]
  exact complete_running hu (by simp [hm])

/-- A write that fails below the limit is logged and counted. -/
theorem Emits.exec_fail_below (h : Emits i ev s) (hm : s.mode = .polling) (hr : s.nextEmit = .fail)
    (hu : s.upc ≠ 4095#12) (hl : ∀ limit, s.cfg.failLimit = some limit → s.failCnt + 1 < limit) :
    exec i s = .next { s with
      trace := s.trace ++ [ev.traced .fail, .log .emit], failCnt := s.failCnt + 1,
      env := { s.env with emit := s.env.emit.tail }, upc := s.upc + 1#12 } := by
  rw [h.exec_polling hm, emitAndCheck_fail_below ev hr hl]
  exact complete_running hu (by simp [hm])

/-- A write that fails at the limit ends the run, where the micro-op stands. -/
theorem Emits.exec_fail_limit (h : Emits i ev s) (hm : s.mode = .polling) (hr : s.nextEmit = .fail)
    (hl : ∃ limit, s.cfg.failLimit = some limit ∧ limit ≤ s.failCnt + 1) :
    exec i s = .next { s with
      trace := s.trace ++ [ev.traced .fail, .log .emit, .log .emitLimit, .exit s.cfg.exitFail],
      failCnt := s.failCnt + 1, env := { s.env with emit := s.env.emit.tail }, reason := .emitLimit,
      exit := some s.cfg.exitFail, mode := .terminated } := by
  rw [h.exec_polling hm, emitAndCheck_fail_limit ev hr hl]
  exact complete_ended rfl

end

theorem encode_emk_ofNat (p : Pad) (j : Fin 12) :
    BitVec.ofNat 16 (0x4000 + 256 * padNumber p + j.val) = encode (.emk p (BitVec.ofNat 4 j.val)) := by
  have hpad : padNumber p = p.toBit.toNat := by cases p <;> rfl
  have hbit := p.toBit.toNat_lt
  apply BitVec.eq_of_toNat_eq
  rw [toNat_encode_emk, BitVec.toNat_ofNat, BitVec.toNat_ofNat, hpad]
  omega

/-- Settles O23: the word is the encoder's, EMK is the emission of its key event, and an index from 12 on is ill
formed. -/
theorem emkEmitsItsKeyAndHandlesTheResult : Obligations.EmkEmitsItsKeyAndHandlesTheResult := by
  intro p j s
  have hemk := emits_emk p j s
  refine ⟨?_, hemk.exec_ok, hemk.exec_fail_below, hemk.exec_fail_limit, hemk.exec_not_polling, fun n hn => ?_⟩
  · rw [encode_emk_ofNat]
    exact decodeOfEncodeIsTheInstruction _ hemk.wf
  · exact exec_of_ill_formed (decide_eq_false (by omega))

/-- Settles O24: SYNC is the emission of a marker. -/
theorem syncEmitsAMarkerAndHandlesTheResult : Obligations.SyncEmitsAMarkerAndHandlesTheResult := by
  refine ⟨decodeOfEncodeIsTheInstruction .sync rfl, fun s => ?_⟩
  have hsync := emits_sync s
  exact ⟨hsync.exec_ok, hsync.exec_fail_below, hsync.exec_fail_limit, hsync.exec_not_polling⟩

/-! ## The frame of an emission -/

/-- An index below 12 is that of a table entry. -/
theorem exists_eq_ofNat_of_indexOk {n : BitVec 4} (h : indexOk n = true) : ∃ j : Fin 12, n = BitVec.ofNat 4 j.val :=
  ⟨⟨n.toNat, (indexOk_iff n).mp h⟩, by rw [BitVec.ofNat_toNat, BitVec.setWidth_eq]⟩

/-- SYNC and EMK, where they have a next state, emit one event each. -/
theorem exists_emits {i : Instr} (hi : i = .sync ∨ ∃ p n, i = .emk p n) (hwf : i.wf = true) (s : State) :
    ∃ ev, Emits i ev s := by
  obtain rfl | ⟨p, n, rfl⟩ := hi
  · exact ⟨_, emits_sync s⟩
  · obtain ⟨j, rfl⟩ := exists_eq_ofNat_of_indexOk hwf
    exact ⟨_, emits_emk p j s⟩

/-- Settles O35: a next state is the emission but for upc, and in each of the three ways it goes the emission writes
its own fields only; MODE, REASON and EXIT where it ends the run. -/
theorem emissionChangesNothingElse : Obligations.EmissionChangesNothingElse := by
  intro i s t hi h
  obtain ⟨hwf, -⟩ := exec_eq_next h
  obtain ⟨-, a, rfl⟩ := exec_next_effect h
  obtain ⟨ev, hev⟩ := exists_emits hi hwf s
  rw [hev.effect_eq]
  obtain ⟨-, he⟩ | ⟨-, -, he⟩ | ⟨-, -, he⟩ := emitAndCheck_cases ev s <;> rw [he]
  · exact ⟨rfl, rfl, fun _ => ⟨rfl, rfl, rfl⟩⟩
  · exact ⟨rfl, rfl, fun _ => ⟨rfl, rfl, rfl⟩⟩
  · exact ⟨rfl, rfl, fun hrun => absurd rfl hrun⟩

end Sys2Proof.Machine
end

section
/-! The control micro-ops (42_control.md R160 to R163): INIT by its two draws, CHKC by the cancellation input, WAIT as
one delay, and JMP with the fetch that follows it. -/

namespace Sys2Proof.Machine

/-! ## The effect of INIT, draw by draw (R160) -/

section
variable {s : State}

theorem initialise_gpio_fail (hg : s.nextGpio = .fail) :
    initialise s = { s with
      trace := s.trace ++ [.gpioInit .fail, .log .gpioInit, .exit s.cfg.exitFail],
      env := { s.env with gpio := s.env.gpio.tail }, reason := .gpioInit, exit := some s.cfg.exitFail,
      mode := .terminated } := by
  rcases initialise_cases s with ⟨_, h⟩ | ⟨hok, _⟩ | ⟨hok, _⟩
  · exact h
  · cases hg.symm.trans hok
  · cases hg.symm.trans hok

theorem initialise_sink_fail (hg : s.nextGpio = .ok) (hs : s.nextSink = .fail) :
    initialise s = { s with
      trace := s.trace ++ [.gpioInit .ok, .cfg s.cfg.pinClk .output, .cfg s.cfg.pinStb .output,
        .cfg s.cfg.pinData0 .input, .cfg s.cfg.pinData1 .input] ++
        [.sinkInit .fail, .log .sinkInit, .exit s.cfg.exitFail],
      env := { s.env with gpio := s.env.gpio.tail, sink := s.env.sink.tail },
      pinModeClk := .output, pinModeStb := .output, pinModeData0 := .input, pinModeData1 := .input,
      reason := .sinkInit, exit := some s.cfg.exitFail, mode := .terminated } := by
  rcases initialise_cases s with ⟨hfail, _⟩ | ⟨_, _, h⟩ | ⟨_, hok, _⟩
  · cases hg.symm.trans hfail
  · rw [h, List.append_assoc]
    rfl
  · cases hs.symm.trans hok

theorem initialise_ok (hg : s.nextGpio = .ok) (hs : s.nextSink = .ok) :
    initialise s = { s with
      trace := s.trace ++ [.gpioInit .ok, .cfg s.cfg.pinClk .output, .cfg s.cfg.pinStb .output,
        .cfg s.cfg.pinData0 .input, .cfg s.cfg.pinData1 .input] ++ [.sinkInit .ok],
      env := { s.env with gpio := s.env.gpio.tail, sink := s.env.sink.tail },
      pinModeClk := .output, pinModeStb := .output, pinModeData0 := .input, pinModeData1 := .input,
      sinkOpen := true, mode := .polling } := by
  rcases initialise_cases s with ⟨hfail, _⟩ | ⟨_, hfail, _⟩ | ⟨_, _, h⟩
  · cases hg.symm.trans hfail
  · cases hs.symm.trans hfail
  · rw [h, List.append_assoc]
    rfl

/-! ## The effect of CHKC, by the cancellation input (R161) -/

theorem checkCancel_absent (hp : s.cfg.cancelPresent = false) : checkCancel s = s := by
  rcases checkCancel_cases s with ⟨_, h⟩ | ⟨hp', _⟩ | ⟨hp', _⟩
  · exact h
  · cases hp.symm.trans hp'
  · cases hp.symm.trans hp'

theorem checkCancel_false (hp : s.cfg.cancelPresent = true) (hc : s.nextCancel = false) :
    checkCancel s = { s with
      trace := s.trace ++ [.cancel false], env := { s.env with cancel := s.env.cancel.tail } } := by
  rcases checkCancel_cases s with ⟨hp', _⟩ | ⟨_, _, h⟩ | ⟨_, hc', _⟩
  · cases hp.symm.trans hp'
  · exact h
  · cases hc.symm.trans hc'

theorem checkCancel_true (hp : s.cfg.cancelPresent = true) (hc : s.nextCancel = true) :
    checkCancel s = { s with
      trace := s.trace ++ [.cancel true, .close, .exit 0], env := { s.env with cancel := s.env.cancel.tail },
      sinkOpen := false, reason := .cancel, exit := some 0, mode := .terminated } := by
  rcases checkCancel_cases s with ⟨hp', _⟩ | ⟨_, hc', _⟩ | ⟨_, _, h⟩
  · cases hp.symm.trans hp'
  · cases hc.symm.trans hc'
  · exact h

/-! ## In its own mode a control micro-op has its effect and completes (R115) -/

theorem exec_init (hm : s.mode = .initializing) : exec .init s = complete s (initialise s) :=
  exec_of_mode rfl nofun hm

theorem exec_chkc (hm : s.mode = .polling) : exec .chkc s = complete s (checkCancel s) :=
  exec_of_mode rfl nofun hm

theorem exec_wait (hm : s.mode = .polling) : exec .wait s = complete s (hostDelay s.cfg.cycleDelay s) :=
  exec_of_mode rfl nofun hm

/-! ## A fetch beyond ROM (R115, R208(d)) -/

/-- A fetch at or beyond L_ROM faults in the state before it, where no kill is laid down. -/
theorem step_beyond_rom (hc : s.cfg.accepted = true) (hm : s.mode ≠ .terminated) (hk : s.env.kill = none)
    (hlen : s.cfg.rom.length ≤ s.upc.toNat) : step s = .fault (.pc s) := by
  have hready : Ready s := ⟨hc, hm, killDue_of_none hk⟩
  rw [step_fetch_outside hready (List.getElem?_eq_none hlen), passBoundary_of_no_kill hk]

end

/-- The word of a jump is its opcode plus its target (R101, R102). -/
theorem encode_jmp_ofNat (t : RomAddr) : BitVec.ofNat 16 (0x8000 + t.toNat) = encode (.jmp t) := by
  rw [← toNat_encode_jmp, BitVec.ofNat_toNat, BitVec.setWidth_eq]

/-! ## The obligations -/

/-- Settles O29: both draws OK go on, and either failure ends the run where INIT stands. -/
theorem initConfiguresOrFails : Obligations.InitConfiguresOrFails := by
  refine ⟨decodeOfEncodeIsTheInstruction .init rfl, fun s => ⟨?_, ?_, ?_, fun hm => exec_of_wrong_mode rfl hm⟩⟩
  · intro hm hg hs hu
    rw [exec_init hm, initialise_ok hg hs]
    exact complete_running hu nofun
  · intro hm hg
    rw [exec_init hm, initialise_gpio_fail hg]
    exact complete_ended rfl
  · intro hm hg hs
    rw [exec_init hm, initialise_sink_fail hg hs]
    exact complete_ended rfl

/-- Settles O30: CHKC goes on without the input and with the input at 0, and ends the run with it at 1. -/
theorem chkcSamplesTheCancelInput : Obligations.ChkcSamplesTheCancelInput := by
  refine ⟨decodeOfEncodeIsTheInstruction .chkc rfl, fun s => ⟨?_, ?_, ?_, fun hm => exec_of_wrong_mode rfl hm⟩⟩
  · intro hm hp hu
    rw [exec_chkc hm, checkCancel_absent hp]
    exact complete_running hu (by simp [hm])
  · intro hm hp hc hu
    rw [exec_chkc hm, checkCancel_false hp hc]
    exact complete_running hu (by simp [hm])
  · intro hm hp hc
    rw [exec_chkc hm, checkCancel_true hp hc]
    exact complete_ended rfl

/-- Settles O31: the delay leaves the block polling, so WAIT goes on to the next address. -/
theorem waitAppendsTheCycleDelay : Obligations.WaitAppendsTheCycleDelay := by
  refine ⟨decodeOfEncodeIsTheInstruction .wait rfl, fun s => ⟨?_, fun hm => exec_of_wrong_mode rfl hm⟩⟩
  intro hm hu
  rw [exec_wait hm, hostDelay_eq]
  exact complete_running hu (by simp [hm])

/-- Settles O32: the word is the encoder's, the jump itself asks nothing of its target, and a target beyond ROM faults
at the fetch that follows. -/
theorem jmpSetsUpcToItsTarget : Obligations.JmpSetsUpcToItsTarget := by
  intro t s
  refine ⟨?_, exec_jmp t, ?_, fun hm => exec_of_wrong_mode rfl hm⟩
  · rw [encode_jmp_ofNat]
    exact decodeOfEncodeIsTheInstruction (.jmp t) rfl
  · intro hm hc hk hlen
    exact step_beyond_rom hc (by simp [hm]) hk hlen

end Sys2Proof.Machine
end

section
/-! The reference micro-program (30_encoding.md R108, R109; 43_reference_sequence.md R180, R181): what stands at which
of its addresses, and the text that assembles to it. -/

namespace Sys2Proof.Machine

/-! ## The listing (R109, R180) -/

/-- A well-formed micro-op that runs in POLLING and does not jump, as every one of a poll cycle up to its JMP. -/
structure PollingOp (i : Instr) : Prop where
  wf : i.wf = true
  ne_jmp : ∀ a, i ≠ .jmp a
  modeOf_eq : modeOf i = .polling

theorem pollingOp_decodeOps (tc : Bool) (p : Pad) : ∀ i ∈ decodeOps tc p, PollingOp i := fun i hi =>
  have hpin := pinOp_decodeOps tc p i hi
  ⟨hpin.wf, hpin.ne_jmp, hpin.modeOf_eq⟩

theorem indexOk_of_mem_allIndices : ∀ n ∈ allIndices, indexOk n = true := by decide

theorem pollingOp_emitPadOps (sm : SyncMode) (p : Pad) : ∀ i ∈ emitPadOps sm p, PollingOp i := by
  have hemk : ∀ n ∈ allIndices, PollingOp (.emk p n) := fun n hn => ⟨indexOk_of_mem_allIndices n hn, nofun, rfl⟩
  have hsync : PollingOp .sync := ⟨rfl, nofun, rfl⟩
  cases sm with
  | perPad => exact List.forall_mem_append.mpr ⟨List.forall_mem_map.mpr hemk, List.forall_mem_singleton.mpr hsync⟩
  | perKey =>
    intro i hi
    obtain ⟨n, hn, hi⟩ := List.mem_flatMap.mp hi
    exact List.forall_mem_cons.mpr ⟨hemk n hn, List.forall_mem_singleton.mpr hsync⟩ i hi

theorem pollingOp_pollCycleOps (tc : Bool) (sm : SyncMode) : ∀ i ∈ pollCycleOps tc sm, PollingOp i := by
  have hchkc : PollingOp .chkc := ⟨rfl, nofun, rfl⟩
  have hwait : PollingOp .wait := ⟨rfl, nofun, rfl⟩
  simp only [pollCycleOps, List.forall_mem_append, List.forall_mem_cons]
  exact ⟨⟨⟨⟨pollingOp_decodeOps tc .pad0, pollingOp_emitPadOps sm .pad0⟩, pollingOp_decodeOps tc .pad1⟩,
    pollingOp_emitPadOps sm .pad1⟩, hchkc, hwait, nofun⟩

theorem length_emitPadOps (sm : SyncMode) (p : Pad) : (emitPadOps sm p).length = emitPadLength sm := by
  cases sm <;> rfl

theorem length_pollCycleOps (tc : Bool) (sm : SyncMode) :
    (pollCycleOps tc sm).length = 2 * decodeLength tc + 2 * emitPadLength sm + 2 := by
  simp only [pollCycleOps, List.length_append, length_decodeOps, length_emitPadOps, List.length_cons, List.length_nil]
  omega

/-- INIT, the cycle and the closing jump, as words (R180). -/
theorem refRom_eq (tc : Bool) (sm : SyncMode) :
    refRom tc sm = encode .init :: ((pollCycleOps tc sm).map encode ++ [encode (.jmp 1#12)]) := by
  rw [refRom, refProgram, List.map_append, List.map_append]
  rfl

/-- R180: INIT, two decodes, two emissions, CHKC, WAIT and JMP. -/
theorem length_refRom (tc : Bool) (sm : SyncMode) :
    (refRom tc sm).length = 2 * decodeLength tc + 2 * emitPadLength sm + 4 := by
  rw [refRom_eq, List.length_cons, List.length_append, List.length_map, length_pollCycleOps, List.length_singleton]

theorem length_refRom_eq_cycle (tc : Bool) (sm : SyncMode) :
    (refRom tc sm).length = (pollCycleOps tc sm).length + 2 := by
  rw [length_refRom, length_pollCycleOps]

theorem length_refRom_le (tc : Bool) (sm : SyncMode) : (refRom tc sm).length ≤ 128 := by
  cases tc <;> cases sm <;> simp [length_refRom, decodeLength, emitPadLength]

/-- From address 1 on stands the cycle. -/
theorem refRom_cycle (tc : Bool) (sm : SyncMode) {k : Nat} (hk : k < (pollCycleOps tc sm).length) :
    (refRom tc sm)[1 + k]? = ((pollCycleOps tc sm).map encode)[k]? := by
  rw [refRom_eq, Nat.add_comm, List.getElem?_cons_succ, List.getElem?_append_left (by rwa [List.length_map])]

/-- At the last address stands the jump back to the cycle. -/
theorem refRom_last (tc : Bool) (sm : SyncMode) :
    (refRom tc sm)[(pollCycleOps tc sm).length + 1]? = some (encode (.jmp 1#12)) := by
  rw [refRom_eq, List.getElem?_cons_succ, List.getElem?_append_right (by rw [List.length_map]), List.length_map,
    Nat.sub_self, List.getElem?_cons_zero]

/-- Behind INIT an address holds a micro-op of the cycle, with more words behind it, or the closing jump. -/
theorem refRom_cases (tc : Bool) (sm : SyncMode) {a : Nat} (h1 : 1 ≤ a) (ha : a < (refRom tc sm).length) :
    (a + 1 < (refRom tc sm).length ∧ ∃ i, PollingOp i ∧ (refRom tc sm)[a]? = some (encode i)) ∨
      (refRom tc sm)[a]? = some (encode (.jmp 1#12)) := by
  obtain ⟨k, rfl⟩ := Nat.exists_eq_add_of_le h1
  have hlen := length_refRom_eq_cycle tc sm
  by_cases hk : k < (pollCycleOps tc sm).length
  · refine .inl ⟨by omega, (pollCycleOps tc sm)[k], pollingOp_pollCycleOps tc sm _ (List.getElem_mem hk), ?_⟩
    rw [refRom_cycle tc sm hk, List.getElem?_map, List.getElem?_eq_getElem hk, Option.map_some]
  · obtain rfl : k = (pollCycleOps tc sm).length := by omega
    exact .inr (by rw [Nat.add_comm, refRom_last])

/-! ## The text (R108, R180) -/

/-- The lines of R180's text, as assembler lines. -/
def refLines : List AsmLine :=
  [⟨none, some (.op .init)⟩, ⟨some "cycle", some (.decode .pad0)⟩, ⟨none, some (.emitPad .pad0)⟩,
   ⟨none, some (.decode .pad1)⟩, ⟨none, some (.emitPad .pad1)⟩, ⟨none, some (.op .chkc)⟩, ⟨none, some (.op .wait)⟩,
   ⟨none, some (.jmpTo "cycle")⟩]

/-- What the assembler reads, line by line. -/
theorem parse_refText : refText.mapM parseLine = some refLines := by decide

theorem expand_refLines (tc : Bool) (sm : SyncMode) :
    refLines.flatMap (AsmLine.expand tc sm) =
      (.init :: pollCycleOps tc sm).map AsmOp.op ++ [.jmpTo "cycle"] := by
  simp [refLines, AsmLine.expand, AsmItem.expand, pollCycleOps]

/-- Micro-ops without labels resolve to themselves. -/
theorem mapM_resolve_op (labels : List (String × Nat)) (ops : List Instr) :
    (ops.map AsmOp.op).mapM (AsmOp.resolve labels) = some ops := by
  rw [List.mapM_map]
  exact (List.mapM_pure (f := id)).trans (congrArg some ops.map_id)

theorem assemble_refLines (tc : Bool) (sm : SyncMode) : assemble tc sm refLines = some (refProgram tc sm) := by
  have hlabels : labelAddresses tc sm 0 refLines = [("cycle", 1)] := rfl
  rw [assemble, expand_refLines, hlabels, List.mapM_append, mapM_resolve_op]
  rfl

/-- Settles O8: the eight lines of the text expand to the listing, with label cycle at address 1. -/
theorem referenceTextAssemblesToRefRom : Obligations.ReferenceTextAssemblesToRefRom := by
  refine ⟨fun tc sm => ?_, by simp only [length_refRom]; decide⟩
  rw [assembleText, parse_refText, Option.bind_some, assemble_refLines, Option.map_some, refRom]

end Sys2Proof.Machine
end

section
/-! The states that run the reference micro-program (43_reference_sequence.md R188): as long as the run has not ended,
each of them has a next state, which runs it too, and where nothing can end the run it polls for ever. -/

namespace Sys2Proof.Machine

/-! ## Where the micro-ops lead -/

/-- A run can end without a kill: by the cancellation input or by the write-failure limit (R19, R20). -/
def CanEnd (c : Config) : Prop := c.cancelPresent = true ∨ c.failLimit ≠ none

theorem initialise_mode_ne (s : State) : (initialise s).mode ≠ .initializing := by
  rcases initialise_cases s with ⟨_, h⟩ | ⟨_, _, h⟩ | ⟨_, _, h⟩ <;> rw [h] <;> nofun

/-- A micro-op that runs in POLLING stays there or ends the run; only CHKC, EMK and SYNC can end it. -/
theorem effect_polling_or_ended {i : Instr} {s : State} (hi : modeOf i = .polling) (hm : s.mode = .polling) :
    (effect i s).mode = .polling ∨ ((effect i s).mode = .terminated ∧ CanEnd s.cfg) := by
  have hemit : ∀ ev, (emitAndCheck ev s).mode = .polling ∨
      ((emitAndCheck ev s).mode = .terminated ∧ CanEnd s.cfg) := by
    intro ev
    rcases emitAndCheck_cases ev s with ⟨_, h⟩ | ⟨_, _, h⟩ | ⟨_, ⟨limit, hl, _⟩, h⟩ <;> rw [h]
    · exact .inl hm
    · exact .inl hm
    · exact .inr ⟨rfl, .inr (by simp [hl])⟩
  cases i with
  | init => cases hi
  | chkc =>
    rcases checkCancel_cases s with ⟨_, h⟩ | ⟨_, _, h⟩ | ⟨hp, _, h⟩ <;> rw [effect, h]
    · exact .inl hm
    · exact .inl hm
    · exact .inr ⟨rfl, .inl hp⟩
  | sync => exact hemit .sync
  | emk p n =>
    rcases effect_emk p n s with h | ⟨ev, h⟩ <;> rw [h]
    · exact .inl hm
    · exact hemit ev
  | smp p n => exact .inl (((effect_ownFieldsOnly (.smp p n) s).mode nofun nofun nofun nofun).1.trans hm)
  | clkl | clkh | stbl | stbh | wait | jmp => exact .inl hm

@[simp] theorem advance_mode (t : State) : (advance t).mode = t.mode := by
  by_cases h : t.mode = .terminated <;> simp [advance, h]

theorem ne_last_address {a : RomAddr} (h : a.toNat + 1 ≠ 4096) : a ≠ 4095#12 := mt (toNat_succ_eq_4096_iff a).mpr h

/-! ## The states of the reference micro-program (R188) -/

section
variable {s t : State}

theorem RunsReference.accepted (h : RunsReference s) : s.cfg.accepted = true := h.1

theorem RunsReference.rom_eq (h : RunsReference s) : s.cfg.rom = refRom s.cfg.trailingClock s.cfg.syncMode := h.2.1

theorem RunsReference.upc_initializing (h : RunsReference s) (hm : s.mode = .initializing) : s.upc = 0#12 :=
  h.2.2.1 hm

theorem RunsReference.upc_polling (h : RunsReference s) (hm : s.mode = .polling) :
    1 ≤ s.upc.toNat ∧ s.upc.toNat < s.cfg.rom.length := h.2.2.2 hm

/-- A later state runs the reference micro-program when INIT is behind it and, while it polls, upc is in the cycle. -/
theorem RunsReference.later (h : RunsReference s) (hcfg : t.cfg = s.cfg) (hm : t.mode ≠ .initializing)
    (hupc : t.mode = .polling → 1 ≤ t.upc.toNat ∧ t.upc.toNat < s.cfg.rom.length) : RunsReference t :=
  ⟨hcfg ▸ h.accepted, hcfg ▸ h.rom_eq, fun hi => absurd hi hm, hcfg.symm ▸ hupc⟩

theorem RunsReference.length_eq (h : RunsReference s) :
    s.cfg.rom.length = 2 * decodeLength s.cfg.trailingClock + 2 * emitPadLength s.cfg.syncMode + 4 :=
  (congrArg List.length h.rom_eq).trans (length_refRom ..)

theorem RunsReference.length_le (h : RunsReference s) : s.cfg.rom.length ≤ 128 :=
  (congrArg List.length h.rom_eq).trans_le (length_refRom_le ..)

/-- A micro-op in its own mode, below the last address, has its effect and moves on unless the run has ended. -/
theorem exec_advances {i : Instr} (hwf : i.wf = true) (hj : ∀ a, i ≠ .jmp a) (hm : s.mode = modeOf i)
    (hu : s.upc.toNat + 1 ≠ 4096) :
    ∃ t, exec i s = .next t ∧ t.cfg = s.cfg ∧ t.mode = (effect i s).mode ∧
      (t.mode = .polling → t.upc.toNat = s.upc.toNat + 1) := by
  have hexec : exec i s = .next (advance (effect i s)) := by
    rw [exec_of_mode hwf hj hm, complete_not_last (ne_last_address hu)]
  exact ⟨_, hexec, exec_keeps_cfg hexec, advance_mode _, fun ht => exec_toNat_upc hj hexec (ht ▸ nofun)⟩

/-- The micro-op at upc leads from s to t, which runs the reference micro-program again. -/
def ReferenceMove (s t : State) : Prop :=
  RunsReference t ∧ ∃ i, i.wf = true ∧ s.cfg.rom[s.upc.toNat]? = some (encode i) ∧ exec i s = .next t

/-- In INITIALIZING INIT stands at address 0 and leads to address 1, or ends the run. -/
theorem RunsReference.move_initializing (h : RunsReference s) (hm : s.mode = .initializing) :
    ∃ t, ReferenceMove s t := by
  have hupc : s.upc.toNat = 0 := congrArg BitVec.toNat (h.upc_initializing hm)
  have hlen := h.length_eq
  obtain ⟨t, hexec, hcfg, hmode, hnext⟩ := exec_advances (i := .init) rfl nofun hm (by omega)
  refine ⟨t, h.later hcfg (hmode ▸ initialise_mode_ne s) fun ht => ?_, .init, rfl, ?_, hexec⟩
  · have := hnext ht
    omega
  · rw [hupc, h.rom_eq, refRom_eq, List.getElem?_cons_zero]

/-- In POLLING a micro-op of the cycle stands at upc, with more words behind it, or the closing jump. -/
theorem RunsReference.fetch_polling (h : RunsReference s) (hm : s.mode = .polling) :
    (s.upc.toNat + 1 < s.cfg.rom.length ∧ ∃ i, PollingOp i ∧ s.cfg.rom[s.upc.toNat]? = some (encode i)) ∨
      s.cfg.rom[s.upc.toNat]? = some (encode (.jmp 1#12)) := by
  obtain ⟨hfirst, hlast⟩ := h.upc_polling hm
  rw [h.rom_eq] at hlast ⊢
  exact refRom_cases _ _ hfirst hlast

/-- In POLLING the micro-op at upc leads to the next address, the jump back to address 1; or it ends the run, where the
run can end. -/
theorem RunsReference.move_polling (h : RunsReference s) (hm : s.mode = .polling) :
    ∃ t, ReferenceMove s t ∧ (t.mode = .polling ∨ CanEnd s.cfg) := by
  have hlen := h.length_eq
  have hle := h.length_le
  rcases h.fetch_polling hm with ⟨hmore, i, hi, hfetch⟩ | hfetch
  · obtain ⟨t, hexec, hcfg, hmode, hnext⟩ := exec_advances hi.wf hi.ne_jmp (hm.trans hi.modeOf_eq.symm) (by omega)
    have hends := hmode ▸ effect_polling_or_ended hi.modeOf_eq hm
    refine ⟨t, ⟨h.later hcfg ?_ fun ht => ?_, i, hi.wf, hfetch, hexec⟩, hends.imp id And.right⟩
    · rcases hends with ht | ⟨ht, -⟩ <;> simp [ht]
    · have := hnext ht
      omega
  · refine ⟨{ s with upc := 1#12 }, ⟨h.later rfl (by simp [hm]) fun _ => ⟨le_refl 1, ?_⟩, _, rfl, hfetch,
      exec_jmp 1#12 hm⟩, .inl hm⟩
    change 1 < _
    omega

/-- The step of a ready state is the micro-op at upc, the boundary passed. -/
theorem step_of_referenceMove (hready : Ready s) (h : ReferenceMove (passBoundary s) t) : step s = .next t := by
  obtain ⟨-, i, hwf, hfetch, hexec⟩ := h
  exact (step_runs hready hfetch (decodeOfEncodeIsTheInstruction i hwf)).trans hexec

/-- While the run has not ended there is a next state, by a kill or by the micro-op at upc. -/
theorem RunsReference.exists_step (h : RunsReference s) (hm : s.mode ≠ .terminated) :
    ∃ t, step s = .next t ∧ RunsReference t := by
  by_cases hkill : s.env.kill = some 0
  · exact ⟨hostKill s, step_killed h.accepted hm hkill, h.later rfl nofun nofun⟩
  have hready : Ready s := ⟨h.accepted, hm, by simpa [killDue] using hkill⟩
  have hpass : RunsReference (passBoundary s) := h
  cases hmode : s.mode with
  | terminated => exact absurd hmode hm
  | initializing =>
    obtain ⟨t, ht⟩ := hpass.move_initializing hmode
    exact ⟨t, step_of_referenceMove hready ht, ht.1⟩
  | polling =>
    obtain ⟨t, ht, -⟩ := hpass.move_polling hmode
    exact ⟨t, step_of_referenceMove hready ht, ht.1⟩

end

/-- Settles O47: reset stands before INIT at address 0, and every state of the reference micro-program that has not
ended has a next one. -/
theorem referenceProgramNeverFaults : Obligations.ReferenceProgramNeverFaults :=
  ⟨fun _ _ hacc hrom => ⟨hacc, hrom, fun _ => rfl, nofun⟩, fun _ h hm => h.exists_step hm⟩

/-! ## Polling for ever (R188(f)) -/

/-- Where the run cannot end and no kill is laid down, a polling state leads to a polling state. -/
theorem RunsReference.step_polling {s : State} (h : RunsReference s) (hm : s.mode = .polling)
    (hend : ¬ CanEnd s.cfg) (hk : s.env.kill = none) :
    ∃ t, step s = .next t ∧ RunsReference t ∧ t.mode = .polling ∧ t.cfg = s.cfg ∧ t.env.kill = none := by
  obtain ⟨t, hmove, hmode⟩ := h.move_polling hm
  have hstep : step s = .next t :=
    step_of_referenceMove ⟨h.accepted, by simp [hm], killDue_of_none hk⟩ ((passBoundary_of_no_kill hk).symm ▸ hmove)
  obtain ⟨hruns, i, -, -, hexec⟩ := hmove
  exact ⟨t, hstep, hruns, hmode.resolve_right hend, exec_keeps_cfg hexec, (exec_ownFieldsOnly hexec).kill.trans hk⟩

/-- Settles O48: by induction on the number of steps, each of which leads to such a state again. -/
theorem referenceProgramPollsForever : Obligations.ReferenceProgramPollsForever := by
  intro s h hm hcancel hlimit hk n
  have hend : ¬ CanEnd s.cfg := by simp [CanEnd, hcancel, hlimit]
  clear hcancel hlimit
  induction n generalizing s with
  | zero => exact ⟨s, rfl, hm⟩
  | succ n ih =>
    obtain ⟨t, hstep, hruns, hmode, hcfg, hkill⟩ := h.step_polling hm hend hk
    rw [run_succ hstep]
    exact ih t hruns hmode hkill (hcfg ▸ hend)

end Sys2Proof.Machine
end

section
/-! A block whose ROM goes on behind the reference micro-program (43_reference_sequence.md R182; 42_control.md R163):
the words behind the closing jump are never fetched, so that its run is the reference run, under another ROM. -/

namespace Sys2Proof.Machine

/-! ## The same state under another ROM -/

/-- The state with r as its ROM. -/
def State.withRom (r : List Word) (s : State) : State := { s with cfg := { s.cfg with rom := r } }

theorem accepted_withRom {c : Config} (hc : c.accepted = true) {r : List Word} (hlow : 1 ≤ r.length)
    (hhigh : r.length ≤ 4096) : { c with rom := r }.accepted = true := by
  simp only [Config.accepted, Config.wf, Bool.and_eq_true] at hc ⊢
  obtain ⟨⟨hrest, -⟩, hrange⟩ := hc
  exact ⟨⟨hrest, (romSizeOk_iff _).mpr ⟨hlow, hhigh⟩⟩, hrange⟩

section
variable {r : List Word} {s t : State}

theorem effect_withRom (i : Instr) : effect i (s.withRom r) = (effect i s).withRom r :=
  effect_elsewhere (State.withRom r) i s (.inr ⟨r, rfl⟩)

/-- No micro-op reads the ROM. -/
theorem exec_withRom {i : Instr} (h : exec i s = .next t) : exec i (s.withRom r) = .next (t.withRom r) := by
  obtain ⟨hwf, hm, ⟨a, rfl, rfl⟩ | ⟨hj, hend, rfl⟩ | ⟨hj, hrun, hu, rfl⟩⟩ := exec_eq_next h
  · exact exec_jmp a hm
  · rw [exec_of_mode (s := s.withRom r) hwf hj hm, effect_withRom]
    exact complete_ended hend
  · rw [exec_of_mode (s := s.withRom r) hwf hj hm, effect_withRom]
    exact complete_running hu hrun

/-- A step reads the ROM at upc only. -/
theorem step_withRom (hc : (s.withRom r).cfg.accepted = true) (hword : r[s.upc.toNat]? = s.cfg.rom[s.upc.toNat]?)
    (h : step s = .next t) : step (s.withRom r) = .next (t.withRom r) := by
  obtain ⟨-, hm, ⟨hk, rfl⟩ | ⟨hk, w, i, hw, hd, hx⟩⟩ := step_eq_next h
  · exact step_killed (s := s.withRom r) hc hm hk
  · exact (step_runs (s := s.withRom r) ⟨hc, hm, hk⟩ (hword.trans hw) hd).trans
      (exec_withRom (s := passBoundary s) hx)

/-! ## The two runs -/

theorem stateAfter_succ {n : Nat} (h : step s = .next t) : stateAfter (n + 1) s = stateAfter n t := by
  rw [stateAfter, run_succ h, stateAfter]

theorem stateAfter_succ_refused {n : Nat} {why : Refusal} (h : step s = .refused why) :
    stateAfter (n + 1) s = none := by
  have hcore : Sys2Proof.core.step s = .refused why := h
  simp only [stateAfter, Host.Core.run, hcore]

/-- The block that runs the reference micro-program with further words behind it (R182). -/
def extendedBlock (extra : List Word) : Block where
  Internal := State
  start c e := State.resetWith { c with rom := c.rom ++ extra } e
  next s :=
    match step s with
    | .next t => some t
    | .fault _ => none
    | .refused _ => none
  observe := State.observe

theorem extendedBlock_next (extra : List Word) (h : step s = .next t) : (extendedBlock extra).next s = some t := by
  simp only [extendedBlock, h]

theorem extendedBlock_next_refused (extra : List Word) {why : Refusal} (h : step s = .refused why) :
    (extendedBlock extra).next s = none := by
  simp only [extendedBlock, h]

theorem Block.after_succ (b : Block) {n : Nat} {x y : b.Internal} (h : b.next x = some y) :
    b.after (n + 1) x = b.after n y := by
  rw [Block.after, h, Option.bind_some]

theorem Block.after_succ_none (b : Block) {n : Nat} {x : b.Internal} (h : b.next x = none) :
    b.after (n + 1) x = none := by
  rw [Block.after, h, Option.bind_none]

/-- While it has not ended, the reference micro-program keeps upc in its own words. -/
theorem RunsReference.upc_lt (h : RunsReference s) (hm : s.mode ≠ .terminated) : s.upc.toNat < s.cfg.rom.length := by
  cases hmode : s.mode with
  | terminated => exact absurd hmode hm
  | polling => exact (h.upc_polling hmode).2
  | initializing =>
    rw [h.upc_initializing hmode, h.length_eq]
    exact Nat.succ_pos _

/-- R180's longest ROM has 128 words, which leaves room for 3968 (R22(d)). -/
theorem RunsReference.accepted_extended (h : RunsReference s) {extra : List Word} (hextra : extra.length ≤ 3968) :
    (s.withRom (s.cfg.rom ++ extra)).cfg.accepted = true := by
  have hlen := h.length_eq
  have hle := h.length_le
  have happend : (s.cfg.rom ++ extra).length = s.cfg.rom.length + extra.length := List.length_append
  exact accepted_withRom h.accepted (by omega) (by omega)

theorem RunsReference.step_extended (h : RunsReference s) {extra : List Word} (hextra : extra.length ≤ 3968)
    (hstep : step s = .next t) :
    step (s.withRom (s.cfg.rom ++ extra)) = .next (t.withRom (s.cfg.rom ++ extra)) :=
  have hupc := h.upc_lt (step_eq_next hstep).2.1
  step_withRom (h.accepted_extended hextra) (List.getElem?_append_left hupc) hstep

/-- Along the run of the reference micro-program the extended block is in the same state but for its ROM, and it ends
where that run ends. -/
theorem RunsReference.after_extended {extra : List Word} (hextra : extra.length ≤ 3968) (n : Nat)
    (h : RunsReference s) :
    (extendedBlock extra).after n (s.withRom (s.cfg.rom ++ extra)) =
      (stateAfter n s).map (State.withRom (s.cfg.rom ++ extra)) := by
  induction n generalizing s with
  | zero => rfl
  | succ n ih =>
    by_cases hm : s.mode = .terminated
    · have hended := extendedBlock_next_refused extra (step_ended (h.accepted_extended hextra) hm)
      rw [Block.after_succ_none _ hended, stateAfter_succ_refused (step_ended h.accepted hm)]
      rfl
    · obtain ⟨t, hstep, ht⟩ := h.exists_step hm
      have hnext := extendedBlock_next extra (h.step_extended hextra hstep)
      rw [Block.after_succ _ hnext, stateAfter_succ hstep, ← step_keeps_cfg hstep]
      exact ih ht

end

/-- Settles O51: after each number of steps both runs show the same, or neither has a state. -/
theorem wordsBehindTheReferenceProgramDoNotShow : Obligations.WordsBehindTheReferenceProgramDoNotShow := by
  intro extra hextra c e hacc hrom
  have hruns : RunsReference (State.resetWith c e) := referenceProgramNeverFaults.1 c e hacc hrom
  have hsame : (fun n => ((extendedBlock extra).after n ((extendedBlock extra).start c e)).map State.observe) =
      fun n => (stateAfter n (State.resetWith c e)).map State.observe := by
    funext n
    refine (congrArg (Option.map State.observe) (hruns.after_extended hextra n)).trans ?_
    rw [Option.map_map]
    rfl
  exact ⟨fun l => iff_of_eq (congrArg (shows · l) hsame), fun o => iff_of_eq (congrArg (endsWith · o) hsame)⟩

end Sys2Proof.Machine
end

section
/-! One pad's emission (30_encoding.md R109; 43_reference_sequence.md R185): its micro-ops as a list of writes, each the
key event of a table entry or a marker, and what they append and leave alone when every write succeeds. -/

namespace Sys2Proof.Machine

/-! ## The writes of an emission -/

/-- One write of EMITPAD: the key event of a table entry, or a marker. -/
inductive PadWrite where
  | key (j : Fin 12)
  | marker

/-- The micro-op that makes the write, for pad p. -/
def PadWrite.op (p : Pad) : PadWrite → Instr
  | .key j => .emk p (BitVec.ofNat 4 j.val)
  | .marker => .sync

/-- What is written, under the tables and the masks of s. -/
def PadWrite.event (p : Pad) (s : State) : PadWrite → SinkEvent
  | .key j => keyEvent p j s
  | .marker => .sync

theorem PadWrite.emits (w : PadWrite) (p : Pad) (s : State) : Emits (w.op p) (w.event p s) s := by
  cases w with
  | key j => exact emits_emk p j s
  | marker => exact emits_sync s

/-- The writes of EMITPAD in order, by the placement of the markers (R16, R109). -/
def padWrites : SyncMode → List PadWrite
  | .perPad => (List.finRange 12).map .key ++ [.marker]
  | .perKey => (List.finRange 12).flatMap fun j => [.key j, .marker]

theorem emitPadOps_eq (sm : SyncMode) (p : Pad) : emitPadOps sm p = (padWrites sm).map (PadWrite.op p) := by
  cases sm <;> rfl

theorem length_padWrites (sm : SyncMode) : (padWrites sm).length = emitPadLength sm := by cases sm <;> rfl

theorem mapMask_eq (m : Mask) (table : Vector TableEntry 12) :
    mapMask m table = (List.finRange 12).map fun j => (table[j].key, pressed m table[j].sel) := by
  have htable : table.toList = (List.finRange 12).map fun j => table[j] := by
    apply List.ext_getElem <;> simp
  rw [mapMask, htable, List.map_map]
  rfl

theorem emitPadTrace_eq (sm : SyncMode) (p : Pad) (s : State) :
    emitPadTrace s.cfg sm p (s.mask p) = (padWrites sm).map fun w => (w.event p s).traced .ok := by
  cases sm with
  | perPad =>
    simp only [emitPadTrace, mapMask_eq, padWrites, List.map_append, List.map_map]
    rfl
  | perKey =>
    simp only [emitPadTrace, mapMask_eq, padWrites, List.map_flatMap, List.flatMap_map]
    rfl

/-! ## Along the writes -/

/-- Where a write that succeeds leads. -/
def PadWrite.done (w : PadWrite) (p : Pad) (s : State) : State :=
  { s with
    trace := s.trace ++ [(w.event p s).traced .ok], failCnt := 0, env := { s.env with emit := s.env.emit.tail },
    upc := s.upc + 1#12 }

/-- A write changes neither tables nor masks. -/
theorem event_done (v w : PadWrite) (p : Pad) (s : State) : v.event p (w.done p s) = v.event p s := by
  cases v <;> cases p <;> rfl

/-- t is where the writes ws of pad p, begun in s, lead when all of them succeed. -/
structure Written (p : Pad) (ws : List PadWrite) (s t : State) : Prop where
  rest : { t with trace := s.trace, upc := s.upc, failCnt := s.failCnt, env := s.env } = s
  env : { t.env with emit := s.env.emit } = s.env
  emit : ∀ k, t.env.emit.answer Config.freeEmit k = s.env.emit.answer Config.freeEmit (ws.length + k)
  trace : t.trace = s.trace ++ ws.map fun w => (w.event p s).traced .ok
  upc : t.upc.toNat = s.upc.toNat + ws.length
  failCnt : s.failCnt = 0 ∨ ws ≠ [] → t.failCnt = 0

theorem Written.nil (p : Pad) (s : State) : Written p [] s s where
  rest := rfl
  env := rfl
  emit k := by rw [List.length_nil, Nat.zero_add]
  trace := by rw [List.map_nil, List.append_nil]
  upc := rfl
  failCnt h := h.resolve_right (absurd rfl)

/-- A write before the others. -/
theorem Written.cons {p : Pad} {w : PadWrite} {ws : List PadWrite} {s t : State} (h : Written p ws (w.done p s) t)
    (hroom : s.upc.toNat + 1 ≠ 4096) : Written p (w :: ws) s t where
  rest := congrArg (fun u : State =>
    { u with trace := s.trace, upc := s.upc, failCnt := s.failCnt, env := s.env }) h.rest
  env := congrArg (fun e : Env => { e with emit := s.env.emit }) h.env
  emit k := by
    have hk : ws.length + k + 1 = (w :: ws).length + k := by
      rw [List.length_cons]
      omega
    rw [h.emit, ← hk]
    exact Port.answer_tail ..
  trace := by
    simp only [h.trace, event_done, List.map_cons]
    exact List.append_assoc ..
  upc := by
    have hupc : (w.done p s).upc.toNat = s.upc.toNat + 1 := toNat_add_one s.upc hroom
    rw [h.upc, hupc, List.length_cons]
    omega
  failCnt _ := h.failCnt (.inl rfl)

/-- In POLLING writes that succeed run to their end, where there is room in the address space. -/
theorem execAll_padWrites (p : Pad) {ws : List PadWrite} {s : State} (hm : s.mode = .polling)
    (hfit : s.upc.toNat + ws.length ≤ 4095)
    (hok : ∀ k, k < ws.length → s.env.emit.answer Config.freeEmit k = .ok) :
    ∃ t, execAll (ws.map (PadWrite.op p)) s = .next t ∧ Written p ws s t := by
  induction ws generalizing s with
  | nil => exact ⟨s, rfl, .nil p s⟩
  | cons w ws ih =>
    rw [List.length_cons] at hfit hok
    have hroom : s.upc.toNat + 1 ≠ 4096 := by omega
    have hupc : (w.done p s).upc.toNat = s.upc.toNat + 1 := toNat_add_one s.upc hroom
    have hfirst : s.nextEmit = .ok := (Port.head_eq_answer ..).trans (hok 0 (Nat.succ_pos _))
    have hexec : exec (w.op p) s = .next (w.done p s) := (w.emits p s).exec_ok hm hfirst (ne_last_address hroom)
    have hrest : ∀ k, k < ws.length → (w.done p s).env.emit.answer Config.freeEmit k = .ok := fun k hk =>
      (Port.answer_tail ..).trans (hok (k + 1) (by omega))
    obtain ⟨t, ht, hwritten⟩ := ih (s := w.done p s) hm (by omega) hrest
    exact ⟨t, (execAll_cons hexec).trans ht, hwritten.cons hroom⟩

/-! ## An emission as a whole -/

/-- In POLLING an emission whose writes succeed runs to its end, where there is room in the address space. -/
theorem execAll_emitPadOps {sm : SyncMode} (p : Pad) {s : State} (hm : s.mode = .polling)
    (hfit : s.upc.toNat + emitPadLength sm ≤ 4095)
    (hok : ∀ k, k < emitPadLength sm → s.env.emit.answer Config.freeEmit k = .ok) :
    ∃ t, execAll (emitPadOps sm p) s = .next t ∧ Written p (padWrites sm) s t := by
  rw [← length_padWrites] at hfit hok
  rw [emitPadOps_eq]
  exact execAll_padWrites p hm hfit hok

theorem Written.mode {p : Pad} {ws : List PadWrite} {s t : State} (h : Written p ws s t) : t.mode = s.mode :=
  (congrArg State.mode h.rest :)

theorem padWrites_ne_nil (sm : SyncMode) : padWrites sm ≠ [] := by cases sm <;> nofun

/-- Settles O26: the writes of an emission are the pairs of the map with their markers, and each of them that succeeds
writes its own fields only. -/
theorem emitPadAppendsTheMapAndItsMarkers : Obligations.EmitPadAppendsTheMapAndItsMarkers := by
  intro sm p s hm hfit hok
  obtain ⟨t, ht, h⟩ := execAll_emitPadOps p hm hfit hok
  refine ⟨t, ht, ?_, h.mode.trans hm, ?_, h.failCnt (.inr (padWrites_ne_nil sm)), h.rest, h.env⟩
  · rw [h.trace, emitPadTrace_eq]
  · rw [h.upc, length_padWrites]

end Sys2Proof.Machine
end

section
/-! One poll cycle of the reference micro-program (43_reference_sequence.md R183): a pad is polled by its decode and its
emission, a cycle is two pads, the cancel check and the delay, and the closing jump leads back to its first address. -/

namespace Sys2Proof.Machine

/-! ## One pad -/

/-- t is where the decode of pad p and the emission of its map lead from s when every write succeeds (R125, R127,
R185). -/
structure PadPolled (p : Pad) (s t : State) : Prop where
  trace : t.trace = s.trace ++ (decodeTrace s.cfg s.cfg.trailingClock p (s.levels p) ++
    emitPadTrace s.cfg s.cfg.syncMode p (assembledMask (s.levels p)))
  mask : t.mask p = assembledMask (s.levels p)
  mask_other : t.mask p.other = s.mask p.other
  levels_other : t.levels p.other = s.levels p.other
  emit : ∀ k, t.env.emit.answer Config.freeEmit k =
    s.env.emit.answer Config.freeEmit (emitPadLength s.cfg.syncMode + k)
  cancel : t.env.cancel = s.env.cancel
  kill : t.env.kill = s.env.kill
  cfg : t.cfg = s.cfg
  mode : t.mode = s.mode
  clkQ : t.clkQ = .low
  stbQ : t.stbQ = .low
  upc : t.upc.toNat = s.upc.toNat + (decodeLength s.cfg.trailingClock + emitPadLength s.cfg.syncMode)

/-- The mask a decode assembles is that of R125. -/
theorem Decoded.mask_eq {tc : Bool} {p : Pad} {s t : State} (h : Decoded tc p s t) (hclean : maskClean (s.mask p)) :
    t.mask p = assembledMask (s.levels p) := by
  rw [assembledMask, ← h.mask hclean, BitVec.ofNat_toNat, BitVec.setWidth_eq]

/-- An emission after a decode. -/
theorem PadPolled.of_decoded_written {p : Pad} {s u t : State} (hclean : maskClean (s.mask p))
    (hd : Decoded s.cfg.trailingClock p s u) (hupc : u.upc.toNat = s.upc.toNat + decodeLength s.cfg.trailingClock)
    (hw : Written p (padWrites s.cfg.syncMode) u t) : PadPolled p s t := by
  have hmask : ∀ q, t.mask q = u.mask q := fun q => (congrArg (State.mask · q) hw.rest :)
  have hcfg : t.cfg = u.cfg := (congrArg State.cfg hw.rest :)
  have hdata : t.env.data p.other = u.env.data p.other := (congrArg (Env.data · p.other) hw.env :)
  have hcancel : t.env.cancel = u.env.cancel := (congrArg Env.cancel hw.env :)
  have hkill : t.env.kill = u.env.kill := (congrArg Env.kill hw.env :)
  have henv := hd.frame.env
  exact {
    trace := by
      rw [hw.trace, ← emitPadTrace_eq, hd.trace, hd.frame.cfg, hd.mask_eq hclean, List.append_assoc]
    mask := (hmask p).trans (hd.mask_eq hclean)
    mask_other := (hmask p.other).trans hd.frame.mask_other
    levels_other := by
      funext k
      rw [State.levels, hdata, henv, Env.setData_data_other, State.levels]
    emit := fun k => by rw [hw.emit, length_padWrites, henv, Env.setData_emit]
    cancel := by rw [hcancel, henv, Env.setData_cancel]
    kill := by rw [hkill, henv, Env.setData_kill]
    cfg := hcfg.trans hd.frame.cfg
    mode := hw.mode.trans hd.frame.mode
    clkQ := (congrArg State.clkQ hw.rest).trans hd.clkQ
    stbQ := (congrArg State.stbQ hw.rest).trans hd.stbQ
    upc := by rw [hw.upc, hupc, length_padWrites, Nat.add_assoc] }

/-- In POLLING a pad is polled, where there is room in the address space and the writes succeed. -/
theorem execAll_pad (p : Pad) {s : State} (hm : s.mode = .polling)
    (hfit : s.upc.toNat + (decodeLength s.cfg.trailingClock + emitPadLength s.cfg.syncMode) ≤ 4095)
    (hclean : maskClean (s.mask p))
    (hok : ∀ k, k < emitPadLength s.cfg.syncMode → s.env.emit.answer Config.freeEmit k = .ok) :
    ∃ t, execAll (decodeOps s.cfg.trailingClock p ++ emitPadOps s.cfg.syncMode p) s = .next t ∧ PadPolled p s t := by
  obtain ⟨u, hu, hupc⟩ := execAll_decodeOps (tc := s.cfg.trailingClock) p hm (by omega)
  have hd := execAll_decoded hu
  have hemit : u.env.emit = s.env.emit := by rw [hd.frame.env, Env.setData_emit]
  obtain ⟨t, ht, hw⟩ := execAll_emitPadOps (sm := s.cfg.syncMode) p (hd.frame.mode.trans hm) (by omega)
    (hemit.symm ▸ hok)
  exact ⟨t, (execAll_append _ _ hu).trans ht, .of_decoded_written hclean hd hupc hw⟩

/-! ## The cancel check and the delay -/

/-- t is where CHKC and WAIT lead from s when no cancellation occurs (R161, R162). -/
structure Delayed (s t : State) : Prop where
  trace : t.trace = s.trace ++ ((if s.cfg.cancelPresent then [.cancel false] else []) ++ [.delay s.cfg.cycleDelay])
  kill : t.env.kill = s.env.kill
  upc : t.upc.toNat = s.upc.toNat + 2
  rest : { t with trace := s.trace, env := s.env, upc := s.upc } = s

/-- Without a cancellation CHKC traces its sample, where the input is present, and goes on. -/
theorem exec_chkc_no_cancel {s : State} (hm : s.mode = .polling) (hu : s.upc ≠ 4095#12)
    (hc : s.cfg.cancelPresent = true → s.nextCancel = false) :
    ∃ e, e.kill = s.env.kill ∧ exec .chkc s = .next { s with
      trace := s.trace ++ (if s.cfg.cancelPresent then [.cancel false] else []), env := e, upc := s.upc + 1#12 } := by
  obtain ⟨habsent, hfalse, -⟩ := chkcSamplesTheCancelInput.2 s
  cases hp : s.cfg.cancelPresent with
  | false => exact ⟨s.env, rfl, by rw [habsent hm hp hu]; simp⟩
  | true => exact ⟨{ s.env with cancel := s.env.cancel.tail }, rfl, hfalse hm hp (hc hp) hu⟩

/-- In POLLING the two micro-ops run to their end when no cancellation occurs. -/
theorem execAll_chkc_wait {s : State} (hm : s.mode = .polling) (hfit : s.upc.toNat + 2 ≤ 4095)
    (hc : s.cfg.cancelPresent = true → s.nextCancel = false) :
    ∃ t, execAll [.chkc, .wait] s = .next t ∧ Delayed s t := by
  have hupc : (s.upc + 1#12).toNat = s.upc.toNat + 1 := toNat_add_one s.upc (by omega)
  have hupc' : (s.upc + 1#12 + 1#12).toNat = (s.upc + 1#12).toNat + 1 := toNat_add_one _ (by omega)
  obtain ⟨e, hkill, hchkc⟩ := exec_chkc_no_cancel hm (ne_last_address (by omega)) hc
  have hwait := fun u => (waitAppendsTheCycleDelay.2 u).1
  refine ⟨_, (execAll_cons hchkc).trans (execAll_cons (hwait _ hm (ne_last_address ?_))), List.append_assoc .., hkill,
    ?_, rfl⟩
  · dsimp only
    omega
  · dsimp only
    omega

/-! ## The cycle -/

/-- t is where one poll cycle, up to its JMP, leads from s when nothing ends the run and no write fails (R183). -/
structure CyclePolled (s t : State) : Prop where
  trace : t.trace = s.trace ++ cycleTrace s.cfg (s.levels .pad0) (s.levels .pad1)
  mask0 : t.mask0 = assembledMask (s.levels .pad0)
  mask1 : t.mask1 = assembledMask (s.levels .pad1)
  mode : t.mode = s.mode
  clkQ : t.clkQ = .low
  stbQ : t.stbQ = .low
  cfg : t.cfg = s.cfg
  kill : t.env.kill = s.env.kill
  upc : t.upc.toNat = s.upc.toNat + (pollCycleOps s.cfg.trailingClock s.cfg.syncMode).length

/-- The two pads, the cancel check and the delay make a cycle. -/
theorem CyclePolled.of_parts {s t u v : State} (h0 : PadPolled .pad0 s t) (h1 : PadPolled .pad1 t u)
    (hd : Delayed u v) : CyclePolled s v := by
  have hcfg : u.cfg = s.cfg := h1.cfg.trans h0.cfg
  have hlevels : t.levels .pad1 = s.levels .pad1 := h0.levels_other
  exact {
    trace := by
      rw [hd.trace, h1.trace, h0.trace, hcfg, h0.cfg, hlevels, cycleTrace]
      simp only [List.append_assoc]
    mask0 := (congrArg State.mask0 hd.rest).trans (h1.mask_other.trans h0.mask)
    mask1 := (congrArg State.mask1 hd.rest).trans (h1.mask.trans (congrArg assembledMask hlevels))
    mode := (congrArg State.mode hd.rest).trans (h1.mode.trans h0.mode)
    clkQ := (congrArg State.clkQ hd.rest).trans h1.clkQ
    stbQ := (congrArg State.stbQ hd.rest).trans h1.stbQ
    cfg := (congrArg State.cfg hd.rest).trans hcfg
    kill := hd.kill.trans (h1.kill.trans h0.kill)
    upc := by
      rw [hd.upc, h1.upc, h0.upc, h0.cfg, length_pollCycleOps]
      omega }

/-- A cycle, pad by pad (R183). -/
theorem pollCycleOps_eq (tc : Bool) (sm : SyncMode) :
    pollCycleOps tc sm = (decodeOps tc .pad0 ++ emitPadOps sm .pad0) ++ (decodeOps tc .pad1 ++ emitPadOps sm .pad1) ++
      [.chkc, .wait] := by
  rw [pollCycleOps, List.append_assoc (decodeOps tc .pad0 ++ emitPadOps sm .pad0)]

/-- In POLLING the micro-ops of a cycle run to its JMP. -/
theorem execAll_pollCycleOps {s : State} (hm : s.mode = .polling)
    (hfit : s.upc.toNat + (pollCycleOps s.cfg.trailingClock s.cfg.syncMode).length ≤ 4095)
    (hclean0 : maskClean s.mask0) (hclean1 : maskClean s.mask1)
    (hok : ∀ k, k < 2 * emitPadLength s.cfg.syncMode → s.env.emit.answer Config.freeEmit k = .ok)
    (hc : s.cfg.cancelPresent = true → s.nextCancel = false) :
    ∃ t, execAll (pollCycleOps s.cfg.trailingClock s.cfg.syncMode) s = .next t ∧ CyclePolled s t := by
  rw [length_pollCycleOps] at hfit
  obtain ⟨t, ht, h0⟩ := execAll_pad .pad0 hm (by omega) hclean0 fun k hk => hok k (by omega)
  have hclean : t.mask .pad1 = s.mask .pad1 := h0.mask_other
  have hcfg := h0.cfg
  have hupc0 := h0.upc
  obtain ⟨u, hu, h1⟩ := execAll_pad .pad1 (h0.mode.trans hm) (by rw [hcfg]; omega) (hclean ▸ hclean1)
    fun k hk => (h0.emit k).trans (hok _ (by rw [hcfg] at hk; omega))
  have hupc1 := h1.upc
  have hcancel : u.nextCancel = s.nextCancel := congrArg (Port.head Config.freeCancel) (h1.cancel.trans h0.cancel)
  rw [hcfg] at hu hupc1
  obtain ⟨v, hv, hd⟩ := execAll_chkc_wait (h1.mode.trans (h0.mode.trans hm)) (by omega)
    (hcancel ▸ (h1.cfg.trans hcfg) ▸ hc)
  refine ⟨v, ?_, .of_parts h0 h1 hd⟩
  have hpads := (execAll_append _ _ ht).trans hu
  rw [pollCycleOps_eq]
  exact (execAll_append _ _ hpads).trans hv

/-! ## The cycle in ROM -/

/-- A run of m + n steps is a run of m and a run of n. -/
theorem run_add {m n : Nat} {s t : State} (h : Sys2Proof.core.run m s = .next t) :
    Sys2Proof.core.run (m + n) s = Sys2Proof.core.run n t := by
  induction m generalizing s with
  | zero =>
    cases h
    rw [Nat.zero_add]
  | succ m ih =>
    cases hstep : Sys2Proof.core.step s with
    | next u =>
      rw [run_succ hstep] at h
      rw [Nat.succ_add, run_succ hstep]
      exact ih h
    | fault _ | refused _ =>
      simp only [Host.Core.run, hstep] at h
      cases h

section
variable {s t : State}

/-- From address 1 on the steps of the reference micro-program are the listing of its cycle. -/
theorem RunsReference.run_cycle (h : RunsReference s) (hm : s.mode = .polling) (hk : s.env.kill = none)
    (hupc : s.upc.toNat = 1) (ht : execAll (pollCycleOps s.cfg.trailingClock s.cfg.syncMode) s = .next t)
    (htm : t.mode = .polling) :
    Sys2Proof.core.run (pollCycleOps s.cfg.trailingClock s.cfg.syncMode).length s = .next t := by
  refine steppingThroughRomExecutesTheListing _ s t h.accepted hk (by simp [hm]) ?_ ?_ ht (by simp [htm])
  · intro i hi
    have hop := pollingOp_pollCycleOps _ _ i hi
    exact ⟨hop.wf, hop.ne_jmp⟩
  · intro k hlt
    rw [hupc, h.rom_eq]
    exact refRom_cycle _ _ hlt

/-- From the address behind the cycle the step is the jump to address 1. -/
theorem RunsReference.step_closing_jump (h : RunsReference s) (hm : s.mode = .polling) (hk : s.env.kill = none)
    (hupc : s.upc.toNat = (pollCycleOps s.cfg.trailingClock s.cfg.syncMode).length + 1) :
    step s = .next { s with upc := 1#12 } := by
  have hfetch : s.cfg.rom[s.upc.toNat]? = some (encode (.jmp 1#12)) := by
    rw [hupc, h.rom_eq]
    exact refRom_last ..
  exact (step_of_encoded h.accepted hk (by simp [hm]) rfl hfetch).trans (exec_jmp 1#12 hm)

end

/-- Settles O49: the steps from address 1 on are the listing of the cycle, and the last step is the jump back. -/
theorem pollCycleAppendsItsEventsInOrder : Obligations.PollCycleAppendsItsEventsInOrder := by
  intro s hruns hm hupc hk hclean0 hclean1 hok hc
  have hone : s.upc.toNat = 1 := congrArg BitVec.toNat hupc
  have hlen := hruns.length_eq
  have hle := hruns.length_le
  have hcycle := length_pollCycleOps s.cfg.trailingClock s.cfg.syncMode
  obtain ⟨t, ht, h⟩ := execAll_pollCycleOps hm (by omega) hclean0 hclean1 hok hc
  have htm : t.mode = .polling := h.mode.trans hm
  have htupc := h.upc
  have htruns : RunsReference t := hruns.later h.cfg (by simp [htm]) fun _ => by omega
  have hjump := htruns.step_closing_jump htm (h.kill.trans hk) (by rw [h.cfg]; omega)
  have hsteps : s.cfg.rom.length - 1 = (pollCycleOps s.cfg.trailingClock s.cfg.syncMode).length + 1 := by omega
  refine ⟨{ t with upc := 1#12 }, ?_, h.trace, h.mask0, h.mask1, htm, rfl, h.clkQ, h.stbQ, h.cfg⟩
  rw [hsteps, run_add (hruns.run_cycle hm hk hone ht htm), run_succ hjump]
  rfl

end Sys2Proof.Machine
end

section
/-! Faults, ends of a run and modes (60_exceptions.md R202 to R211): where a step faults and with which fault, what ends
a run and in which state, and which step changes the mode. -/

namespace Sys2Proof.Machine

/-! ## The mode of a micro-op (R115, R211) -/

theorem mode_eq_modeOf_iff {i : Instr} {m : Mode} :
    m = modeOf i ↔ (m = .initializing ∧ i = .init) ∨ (m = .polling ∧ i ≠ .init) := by
  by_cases hi : i = .init
  · subst hi
    simp [modeOf]
  · simp [modeOf_of_ne_init hi, hi]

theorem mode_ne_modeOf_iff {i : Instr} {m : Mode} :
    m ≠ modeOf i ↔ (i = .init ∧ m ≠ .initializing) ∨ (i ≠ .init ∧ m ≠ .polling) := by
  by_cases hi : i = .init
  · subst hi
    simp [modeOf]
  · simp [modeOf_of_ne_init hi, hi]

/-- In its own mode, below the last address, a well-formed micro-op has a next state. -/
theorem exists_exec_next {i : Instr} {s : State} (hwf : i.wf = true) (hm : s.mode = modeOf i)
    (hu : s.upc ≠ 4095#12) : ∃ t, exec i s = .next t := by
  by_cases hj : ∃ a, i = .jmp a
  · obtain ⟨a, rfl⟩ := hj
    exact ⟨_, exec_jmp a hm⟩
  · have hj' : ∀ a, i ≠ .jmp a := fun a ha => hj ⟨a, ha⟩
    exact ⟨_, (exec_of_mode hwf hj' hm).trans (complete_not_last hu _)⟩

/-! ## Where a step faults (R209) -/

/-- Where a step from s faults, and with which fault: for its configuration, at the fetch, at the decoder, or in the
decoded micro-op, in the wrong mode or at the last address. -/
inductive StepFaults (s : State) : Fault → Prop where
  | config (hc : s.cfg.accepted = false) : StepFaults s .config
  | fetch (hready : Ready s) (hlen : s.cfg.rom.length ≤ s.upc.toNat) : StepFaults s (.pc (passBoundary s))
  | illegal {w : Word} {why : Illegal} (hready : Ready s) (hw : s.cfg.rom[s.upc.toNat]? = some w)
    (hd : decode w = .error why) : StepFaults s (.illegal why)
  | mode {w : Word} {i : Instr} (hready : Ready s) (hw : s.cfg.rom[s.upc.toNat]? = some w) (hd : decode w = .ok i)
    (hm : s.mode ≠ modeOf i) : StepFaults s .mode
  | last {w : Word} {i : Instr} {stopped : State} (hready : Ready s) (hw : s.cfg.rom[s.upc.toNat]? = some w)
    (hd : decode w = .ok i) (hx : exec i (passBoundary s) = .fault (.pc stopped)) : StepFaults s (.pc stopped)

theorem step_faults {s : State} {f : Fault} (h : step s = .fault f) : StepFaults s f := by
  cases hc : s.cfg.accepted with
  | false =>
    cases (step_refused_config hc).symm.trans h
    exact .config hc
  | true =>
    by_cases hm : s.mode = .terminated
    · cases (step_ended hc hm).symm.trans h
    by_cases hk : s.env.kill = some 0
    · cases (step_killed hc hm hk).symm.trans h
    have hready : Ready s := ⟨hc, hm, Bool.eq_false_iff.mpr (mt (killDue_iff s).mp hk)⟩
    cases hw : s.cfg.rom[s.upc.toNat]? with
    | none =>
      cases (step_fetch_outside hready hw).symm.trans h
      exact .fetch hready (List.getElem?_eq_none_iff.mp hw)
    | some w =>
      cases hd : decode w with
      | error why =>
        cases (step_illegal hready hw hd).symm.trans h
        exact .illegal hready hw hd
      | ok i =>
        have hx : exec i (passBoundary s) = .fault f := (step_runs hready hw hd).symm.trans h
        obtain ⟨hwrong, rfl⟩ | ⟨-, -, -, -, rfl⟩ := (exec_eq_fault (decode_wf hd)).mp hx
        · exact .mode hready hw hd hwrong
        · exact .last hready hw hd hx

/-- A micro-op faults F_PC at address 4095 only, in the state in which it has had the effect it has at address 0. -/
theorem exec_eq_fault_pc {i : Instr} {s stopped : State} (hwf : i.wf = true) :
    exec i s = .fault (.pc stopped) ↔ s.upc = 4095#12 ∧ (∀ a, i ≠ .jmp a) ∧ stopped.upc = 4095#12 ∧
      stopped.mode ≠ .terminated ∧ exec i { s with upc := 0#12 } = .next { stopped with upc := 1#12 } := by
  constructor
  · intro h
    obtain ⟨-, hf⟩ | ⟨hm, hj, hu, hrun, hf⟩ := (exec_eq_fault hwf).mp h
    · cases hf
    · obtain rfl : stopped = effect i s := Fault.pc.inj hf
      obtain ⟨-, hend⟩ | ⟨-, -, hzero⟩ := exec_last hwf hj hm hu
      · exact absurd hend hrun
      · exact ⟨hu, hj, (effect_keeps i s).2.1.trans hu, hrun, hzero⟩
  · rintro ⟨hu, hj, hupc, hrun, hzero⟩
    obtain ⟨hm, a, ha⟩ := exec_next_effect hzero
    have heffect : effect i { s with upc := 0#12 } = { effect i s with upc := 0#12 } :=
      effect_elsewhere (fun u => { u with upc := 0#12 }) i s (.inl ⟨0#12, rfl⟩)
    rw [heffect] at ha
    have hstopped : stopped = effect i s :=
      calc stopped
        _ = { stopped with upc := 4095#12 } := by rw [← hupc]
        _ = { effect i s with upc := 4095#12 } := congrArg (fun u : State => { u with upc := 4095#12 }) ha
        _ = effect i s := by rw [← hu, ← (effect_keeps i s).2.1]
    subst hstopped
    exact (exec_eq_fault hwf).mpr (.inr ⟨hm, hj, hu, hrun, rfl⟩)

/-- Settles O10: each fault has its own places in a step, and at each of them it is raised. -/
theorem stepFaultsExactlyWhereTheRuleSays : Obligations.StepFaultsExactlyWhereTheRuleSays := by
  intro s
  refine ⟨⟨fun h => ?_, step_refused_config⟩, ⟨fun h => ?_, ?_⟩, fun why => ⟨fun h => ?_, ?_⟩,
    fun stopped => ⟨fun h => ?_, ?_⟩⟩
  · cases step_faults h with
    | config hc => exact hc
  · cases step_faults h with
    | mode hready hw hd hm => exact ⟨hready, _, _, hw, hd, mode_ne_modeOf_iff.mp hm⟩
  · rintro ⟨hready, w, i, hw, hd, hm⟩
    rw [step_runs hready hw hd]
    exact exec_of_wrong_mode (decode_wf hd) (mode_ne_modeOf_iff.mpr hm)
  · cases step_faults h with
    | illegal hready hw hd => exact ⟨hready, _, hw, hd⟩
  · rintro ⟨hready, w, hw, hd⟩
    exact step_illegal hready hw hd
  · cases step_faults h with
    | fetch hready hlen => exact ⟨hready, .inl ⟨hlen, rfl⟩⟩
    | last hready hw hd hx =>
      obtain ⟨hu, hj, hstopped⟩ := (exec_eq_fault_pc (decode_wf hd)).mp hx
      exact ⟨hready, .inr ⟨hu, _, _, hw, hd, hj, hstopped⟩⟩
  · rintro ⟨hready, ⟨hlen, rfl⟩ | ⟨hu, w, i, hw, hd, hj, hstopped⟩⟩
    · exact step_fetch_outside hready (List.getElem?_eq_none hlen)
    · rw [step_runs hready hw hd]
      exact (exec_eq_fault_pc (decode_wf hd)).mpr ⟨hu, hj, hstopped⟩

/-! ## Ends of a run (R202, R203, R207) -/

/-- Settles O12: a next state asks for a mode in which something executes. -/
theorem terminatedIsFinal : Obligations.TerminatedIsFinal := by
  intro s hend
  exact ⟨fun t h => (step_eq_next h).2.1 hend, fun i t h => not_terminated_of_exec h hend⟩

/-- Settles O13: a step with a kill due is the kill. -/
theorem killEndsTheRunAtTheBoundary : Obligations.KillEndsTheRunAtTheBoundary := by
  intro s hc hm hk
  rw [step_killed hc hm hk, hostKill_eq]

/-- Settles O25: both micro-ops are emissions, and one that fails below the limit appends its event and the log. -/
theorem failedWriteIsLoggedAndExecutionContinues : Obligations.FailedWriteIsLoggedAndExecutionContinues := by
  intro i s hi hm hu hr hl
  obtain ⟨ev, hev⟩ : ∃ ev, Emits i ev s := by
    obtain rfl | ⟨p, j, rfl⟩ := hi
    · exact ⟨_, emits_sync s⟩
    · exact ⟨_, emits_emk p j s⟩
  refine ⟨_, ev.traced .fail, hev.exec_fail_below hm hr hu hl, hm, rfl, rfl, rfl, ?_⟩
  cases ev with
  | sync => exact .inl rfl
  | key key pr => exact .inr ⟨key, pr, rfl⟩

section
variable {s : State}

/-- INIT at a failed GPIO setup is fatal once the answer is traced. -/
theorem initialise_gpio_fatal (hg : s.nextGpio = .fail) :
    initialise s = fatal .gpioInit { s with
      trace := s.trace ++ [.gpioInit .fail], env := { s.env with gpio := s.env.gpio.tail } } := by
  rw [initialise_gpio_fail hg, fatal_eq, List.append_assoc]
  rfl

/-- INIT at a failed sink is fatal once the pins are configured and the answer is traced. -/
theorem initialise_sink_fatal (hg : s.nextGpio = .ok) (hs : s.nextSink = .fail) :
    initialise s = fatal .sinkInit { s with
      trace := s.trace ++ [.gpioInit .ok, .cfg s.cfg.pinClk .output, .cfg s.cfg.pinStb .output,
        .cfg s.cfg.pinData0 .input, .cfg s.cfg.pinData1 .input, .sinkInit .fail],
      env := { s.env with gpio := s.env.gpio.tail, sink := s.env.sink.tail },
      pinModeClk := .output, pinModeStb := .output, pinModeData0 := .input, pinModeData1 := .input } := by
  rw [initialise_sink_fail hg hs, fatal_eq, List.append_assoc, List.append_assoc]
  rfl

/-- An emission that fails at the limit is fatal once the failure is logged and counted. -/
theorem emitAndCheck_fatal (ev : SinkEvent) (hr : s.nextEmit = .fail)
    (hl : ∃ limit, s.cfg.failLimit = some limit ∧ limit ≤ s.failCnt + 1) :
    emitAndCheck ev s = fatal .emitLimit { s with
      trace := s.trace ++ [ev.traced .fail, .log .emit], failCnt := s.failCnt + 1,
      env := { s.env with emit := s.env.emit.tail } } := by
  rw [emitAndCheck_fail_limit ev hr hl, fatal_eq, List.append_assoc]
  rfl

/-- A micro-op that emits, at the limit, ends the run in that fatal state. -/
theorem Emits.exec_fatal {i : Instr} {ev : SinkEvent} (h : Emits i ev s) (hm : s.mode = .polling)
    (hr : s.nextEmit = .fail) (hl : ∃ limit, s.cfg.failLimit = some limit ∧ limit ≤ s.failCnt + 1) :
    exec i s = .next (fatal .emitLimit { s with
      trace := s.trace ++ [ev.traced .fail, .log .emit], failCnt := s.failCnt + 1,
      env := { s.env with emit := s.env.emit.tail } }) := by
  rw [h.exec_polling hm, emitAndCheck_fatal ev hr hl]
  exact complete_ended rfl

end

/-- t is fatal, for this reason, of a state with the mode and the address of s. -/
def FatalFrom (reason : Reason) (s t : State) : Prop :=
  ∃ reached, t = fatal reason reached ∧ reached.mode = s.mode ∧ reached.upc = s.upc

theorem FatalFrom.reason_eq {reason : Reason} {s t : State} (h : FatalFrom reason s t) : t.reason = reason := by
  obtain ⟨_, rfl, -⟩ := h
  rfl

/-- Micro-op i, begun in s, ends the run in t: the three fatal points and the clean exit, each with its cause. -/
inductive Ends (s t : State) : Instr → Prop where
  | gpio (hg : s.nextGpio = .fail) (h : FatalFrom .gpioInit s t) : Ends s t .init
  | sink (hg : s.nextGpio = .ok) (hs : s.nextSink = .fail) (h : FatalFrom .sinkInit s t) : Ends s t .init
  | emitLimit {i : Instr} (hi : i = .sync ∨ ∃ p n, i = .emk p n) (hr : s.nextEmit = .fail)
    (hl : ∃ limit, s.cfg.failLimit = some limit ∧ limit ≤ s.failCnt + 1) (h : FatalFrom .emitLimit s t) : Ends s t i
  | cancel (hp : s.cfg.cancelPresent = true) (hc : s.nextCancel = true) (h : t.reason = .cancel) : Ends s t .chkc

theorem emitAndCheck_ends {i : Instr} (hi : i = .sync ∨ ∃ p n, i = .emk p n) {ev : SinkEvent} {s : State}
    (hm : s.mode ≠ .terminated) (h : (emitAndCheck ev s).mode = .terminated) : Ends s (emitAndCheck ev s) i := by
  rcases emitAndCheck_cases ev s with ⟨_, he⟩ | ⟨_, _, he⟩ | ⟨hr, hl, _⟩
  · exact absurd ((congrArg State.mode he).symm.trans h) hm
  · exact absurd ((congrArg State.mode he).symm.trans h) hm
  · exact .emitLimit hi hr hl ⟨_, emitAndCheck_fatal ev hr hl, rfl, rfl⟩

/-- What ends a run that has not ended. -/
theorem effect_ends {i : Instr} {s : State} (hm : s.mode ≠ .terminated) (h : (effect i s).mode = .terminated) :
    Ends s (effect i s) i := by
  cases i with
  | init =>
    rcases initialise_cases s with ⟨hg, _⟩ | ⟨hg, hs, _⟩ | ⟨_, _, he⟩
    · exact .gpio hg ⟨_, initialise_gpio_fatal hg, rfl, rfl⟩
    · exact .sink hg hs ⟨_, initialise_sink_fatal hg hs, rfl, rfl⟩
    · cases (congrArg State.mode he).symm.trans h
  | chkc =>
    rcases checkCancel_cases s with ⟨_, he⟩ | ⟨_, _, he⟩ | ⟨hp, hc, he⟩
    · exact absurd ((congrArg State.mode he).symm.trans h) hm
    · exact absurd ((congrArg State.mode he).symm.trans h) hm
    · exact .cancel hp hc (congrArg State.reason he)
  | sync => exact emitAndCheck_ends (.inl rfl) hm h
  | emk p n =>
    rcases effect_emk p n s with he | ⟨ev, he⟩ <;> rw [he] at h ⊢
    · exact absurd h hm
    · exact emitAndCheck_ends (.inr ⟨p, n, rfl⟩) hm h
  | smp p n =>
    exact absurd (((effect_ownFieldsOnly (.smp p n) s).mode nofun nofun nofun nofun).1.symm.trans h) hm
  | clkl | clkh | stbl | stbh | wait | jmp => exact absurd h hm

/-- A next state in which the run has ended is the effect itself. -/
theorem exec_ends {i : Instr} {s t : State} (h : exec i s = .next t) (hend : t.mode = .terminated) : Ends s t i := by
  have hm : s.mode ≠ .terminated := not_terminated_of_exec h
  obtain ⟨-, -, ⟨a, rfl, rfl⟩ | ⟨-, he, rfl⟩ | ⟨-, hrun, -, rfl⟩⟩ := exec_eq_next h
  · exact absurd hend hm
  · exact effect_ends hm he
  · exact absurd hend hrun

/-- Of the ends of a run by a micro-op, those but the clean exit are fatal. -/
theorem Ends.fatalFrom {i : Instr} {s t : State} (h : Ends s t i) (hc : t.reason ≠ .cancel) :
    FatalFrom t.reason s t := by
  cases h with
  | gpio _ hf | sink _ _ hf | emitLimit _ _ _ hf => rwa [hf.reason_eq]
  | cancel _ _ hr => exact absurd hr hc

/-- Settles O33: fatal entry is one record that ends the run, each raiser answers it, and it is every end of a run but
the clean exit. -/
theorem fatalEntryEndsTheRun : Obligations.FatalEntryEndsTheRun := by
  refine ⟨fun reason s => ⟨fatal_eq reason s, ?_⟩, fun s => ⟨?_, ?_, ?_⟩, fun i s t h hend hc => ?_⟩
  · obtain ⟨hstep, hexec⟩ := terminatedIsFinal (fatal reason s) rfl
    exact ⟨hexec, hstep⟩
  · intro hm hg
    rw [exec_init hm, initialise_gpio_fatal hg]
    exact complete_ended rfl
  · intro hm hg hs
    rw [exec_init hm, initialise_sink_fatal hg hs]
    exact complete_ended rfl
  · intro hm hr hl
    exact ⟨(emits_sync s).exec_fatal hm hr hl, fun p j => (emits_emk p j s).exec_fatal hm hr hl⟩
  · exact (exec_ends h hend).fatalFrom hc

/-! ## The modes (R211) -/

/-- A micro-op that changes the mode and does not end the run is INIT, with both its answers OK. -/
theorem exec_enters_polling {i : Instr} {s t : State} (h : exec i s = .next t) (hrun : t.mode ≠ .terminated)
    (hne : t.mode ≠ s.mode) :
    i = .init ∧ s.mode = .initializing ∧ t.mode = .polling ∧ s.nextGpio = .ok ∧ s.nextSink = .ok := by
  obtain ⟨hm, a, rfl⟩ := exec_next_effect h
  by_cases hi : i = .init
  · subst hi
    rcases initialise_cases s with ⟨_, he⟩ | ⟨_, _, he⟩ | ⟨hg, hs, he⟩
    · exact absurd (congrArg State.mode he) hrun
    · exact absurd (congrArg State.mode he) hrun
    · exact ⟨rfl, hm, congrArg State.mode he, hg, hs⟩
  · have hp : s.mode = .polling := hm.trans (modeOf_of_ne_init hi)
    obtain hpoll | ⟨hend, -⟩ := effect_polling_or_ended (modeOf_of_ne_init hi) hp
    · exact absurd (hpoll.trans hp.symm) hne
    · exact absurd hend hrun

/-- Settles O42: the modes in which the micro-ops execute, and the transitions: a kill, INIT's entry into POLLING, and
the ends of a run. -/
theorem modesChangeOnlyAsTheTableSays : Obligations.ModesChangeOnlyAsTheTableSays := by
  refine ⟨fun _ _ => rfl, fun i s t h => mode_eq_modeOf_iff.mp (exec_eq_next h).2.1, fun i s hwf hmode => ?_,
    fun s t h hne => ?_⟩
  · have hm : s.mode = modeOf i := mode_eq_modeOf_iff.mpr hmode
    refine ⟨fun hf => ?_, exists_exec_next hwf hm⟩
    obtain ⟨hm', -⟩ | ⟨-, -, -, -, hf'⟩ := (exec_eq_fault hwf).mp hf
    · exact hm' hm
    · cases hf'
  · obtain ⟨-, hm, ⟨hk, rfl⟩ | ⟨-, w, i, hw, hd, hx⟩⟩ := step_eq_next h
    · exact .inl ⟨hm, rfl, rfl, hk⟩
    refine .inr ⟨w, i, hw, hd, ?_⟩
    have hmode : s.mode = modeOf i := (exec_eq_next hx).2.1
    by_cases hend : t.mode = .terminated
    · refine .inr ?_
      cases exec_ends hx hend with
      | gpio hg hf => exact .inl ⟨hmode, hend, rfl, .inl ⟨hg, hf.reason_eq⟩⟩
      | sink hg hs hf => exact .inl ⟨hmode, hend, rfl, .inr ⟨hg, hs, hf.reason_eq⟩⟩
      | cancel hp hc hr => exact .inr (.inl ⟨hmode, hend, rfl, hp, hc, hr⟩)
      | emitLimit hi hr hl hf =>
        have hpoll : modeOf i = .polling := by
          obtain rfl | ⟨p, n, rfl⟩ := hi <;> rfl
        exact .inr (.inr ⟨hmode.trans hpoll, hend, hi, hr, hf.reason_eq, hl⟩)
    · obtain ⟨hi, hinit, hpoll, hg, hs⟩ := exec_enters_polling hx hend hne
      exact .inl ⟨hinit, hpoll, hi, hg, hs⟩

end Sys2Proof.Machine
end

section
/-! A decode on the bench (60_exceptions.md R215, R216): the pads see every write of the block, a strobe pulse
latches the buttons, and before its k-th sample a pad shows button k. -/

namespace Sys2Proof.Machine

/-! ## A pad sees a pulse (R216) -/

/-- The pad that has latched buttons and has shifted to position k, with both lines low. -/
def PadDevice.shifted (buttons : BitVec 12) (k : Nat) : PadDevice := ⟨buttons, ~~~buttons, k, .low, .low⟩

/-- A strobe pulse latches the buttons at position 0, whatever the pad held. -/
theorem seeStrobe_pulse {d : PadDevice} (hclk : d.clk = .low) :
    (d.seeStrobe .high).seeStrobe .low = .shifted d.buttons 0 := by
  obtain ⟨buttons, latched, pos, stb, clk⟩ := d
  obtain rfl : clk = .low := hclk
  simp [PadDevice.seeStrobe, PadDevice.latch, PadDevice.shifted]

/-- A clock pulse has one edge of either kind, so that the pad shifts once. -/
theorem seeClock_pulse (edge : ShiftEdge) (buttons : BitVec 12) (k : Nat) :
    ((PadDevice.shifted buttons k).seeClock edge .high).seeClock edge .low = .shifted buttons (k + 1) := by
  cases edge <;> rfl

/-- At position k a pad shows button k, LOW when pressed. -/
theorem line_shifted (params : PadParams) (buttons : BitVec 12) {k : Nat} (hk : k ≤ 11) :
    (PadDevice.shifted buttons k).line params = .low ↔ buttons.getLsbD k = true := by
  have hlatched : (~~~buttons).getLsbD k = !buttons.getLsbD k := by
    rw [BitVec.getLsbD_not, decide_eq_true (by omega), Bool.true_and]
  rw [PadDevice.line, PadDevice.shifted, if_pos hk, hlatched]
  cases buttons.getLsbD k <;> decide

/-! ## One pin micro-op on the bench -/

/-- The bench after micro-op i, one address on. -/
def Bench.moved (i : Instr) (b : Bench) : Bench := b.after { effect i b.lines with upc := b.core.upc + 1#12 }

/-- The bench after a listing. -/
def Bench.played (ops : List Instr) (b : Bench) : Bench := ops.foldl (fun c i => c.moved i) b

theorem Bench.played_append (ops ops' : List Instr) (b : Bench) : b.played (ops ++ ops') = (b.played ops).played ops' :=
  List.foldl_append ..

theorem lines_mask (b : Bench) (p : Pad) : b.lines.mask p = b.core.mask p := by cases p <;> rfl

/-- What the block reads next on line p is what pad p shows now. -/
theorem lines_nextLevel (b : Bench) (p : Pad) : b.lines.nextLevel p = (b.pad p).line b.params := by cases p <;> rfl

theorem moved_mask (i : Instr) (b : Bench) (p : Pad) : (b.moved i).core.mask p = (effect i b.lines).mask p := by
  cases p <;> rfl

/-- A listing without samples of pad p writes no mask of it. -/
theorem played_mask_of_no_smp {p : Pad} {ops : List Instr} (hops : ∀ i ∈ ops, ∀ n, i ≠ .smp p n) (b : Bench) :
    (b.played ops).core.mask p = b.core.mask p := by
  induction ops generalizing b with
  | nil => rfl
  | cons i rest ih =>
    obtain ⟨hi, hrest⟩ := List.forall_mem_cons.mp hops
    have hmoved : (b.moved i).core.mask p = b.core.mask p := by
      rw [moved_mask, ((effect_ownFieldsOnly i b.lines).mask p hi).1, lines_mask]
    exact (ih hrest (b.moved i)).trans hmoved

/-- A pad sees the one event of a micro-op. -/
theorem moved_pad {i : Instr} {b : Bench} {e : Event} (h : (effect i b.lines).trace = b.core.trace ++ [e]) (p : Pad) :
    (b.moved i).pad p = (b.pad p).see b.core.cfg b.params e := by
  have hcfg : (effect i b.lines).cfg = b.core.cfg := (effect_keeps i b.lines).1
  cases p <;> simp [Bench.moved, Bench.after, Bench.pad, h, hcfg]

/-- c has come from b by pin micro-ops of pad p: the configuration, the mode and the other mask are those of
b. -/
structure BenchFrame (p : Pad) (b c : Bench) : Prop where
  cfg : c.core.cfg = b.core.cfg
  mode : c.core.mode = b.core.mode
  mask_other : c.core.mask p.other = b.core.mask p.other

theorem BenchFrame.refl (p : Pad) (b : Bench) : BenchFrame p b b := ⟨rfl, rfl, rfl⟩

/-- One more pin micro-op. -/
theorem BenchFrame.moved {p : Pad} {b c : Bench} (h : BenchFrame p b c) {i : Instr} (hi : PinOp p i) :
    BenchFrame p b (c.moved i) := by
  have hframe : PinFrame p c.lines (effect i c.lines) := (PinFrame.refl p _).effect_pinOp hi
  exact {
    cfg := hframe.cfg.trans h.cfg
    mode := hframe.mode.trans h.mode
    mask_other := by rw [moved_mask, hframe.mask_other, lines_mask, h.mask_other] }

theorem BenchFrame.played {p : Pad} {b c : Bench} (h : BenchFrame p b c) {ops : List Instr}
    (hops : ∀ i ∈ ops, PinOp p i) : BenchFrame p b (c.played ops) := by
  induction ops generalizing c with
  | nil => exact h
  | cons i rest ih =>
    obtain ⟨hi, hrest⟩ := List.forall_mem_cons.mp hops
    exact ih (h.moved hi) hrest

/-- In POLLING a listing of pin micro-ops with room in the address space runs to its end on the bench. -/
theorem benchExecAll_pinOps {p : Pad} {ops : List Instr} (hops : ∀ i ∈ ops, PinOp p i) {b : Bench}
    (hm : b.core.mode = .polling) (hfit : b.core.upc.toNat + ops.length ≤ 4095) :
    Bench.execAll ops b = .next (b.played ops) := by
  induction ops generalizing b with
  | nil => rfl
  | cons i rest ih =>
    obtain ⟨hi, hrest⟩ := List.forall_mem_cons.mp hops
    rw [List.length_cons] at hfit
    have hroom : b.core.upc.toNat + 1 ≠ 4096 := by omega
    have hexec : exec i b.lines = .next { effect i b.lines with upc := b.core.upc + 1#12 } :=
      hi.exec_polling hm (ne_last_address hroom)
    have hdrive : b.drive (exec i) = .next (b.moved i) := by rw [Bench.drive, hexec, Bench.moved]
    have hupc : (b.moved i).core.upc.toNat = b.core.upc.toNat + 1 := toNat_add_one b.core.upc hroom
    have hmode : (b.moved i).core.mode = .polling := ((BenchFrame.refl p b).moved hi).mode.trans hm
    have htail : Bench.execAll rest (b.moved i) = .next ((b.moved i).played rest) := ih hrest hmode (by omega)
    rw [Bench.execAll, hdrive]
    exact htail

/-! ## Pulses and samples on the bench -/

/-- A strobe pulse reaches every pad and no mask. -/
theorem played_pulseStb (b : Bench) (p : Pad) :
    (b.played pulseStb).pad p = ((b.pad p).seeStrobe .high).seeStrobe .low ∧
      (b.played pulseStb).core.mask p = b.core.mask p := by
  have hhigh : (b.moved .stbh).pad p = (b.pad p).seeStrobe .high := by
    rw [moved_pad rfl]
    exact if_pos rfl
  constructor
  · change ((b.moved .stbh).moved .stbl).pad p = _
    rw [moved_pad rfl, ← hhigh]
    exact if_pos rfl
  · exact played_mask_of_no_smp (by simp [pulseStb]) b

/-- A clock pulse reaches every pad and no mask, the clock and the strobe being two pins. -/
theorem played_pulseClk {b : Bench} (hpins : b.core.cfg.pinClk ≠ b.core.cfg.pinStb) (p : Pad) :
    (b.played pulseClk).pad p = ((b.pad p).seeClock b.params.edge .high).seeClock b.params.edge .low ∧
      (b.played pulseClk).core.mask p = b.core.mask p := by
  have hsee : ∀ (d : PadDevice) (lvl : Level),
      d.see b.core.cfg b.params (.wr b.core.cfg.pinClk lvl) = d.seeClock b.params.edge lvl := by
    intro d lvl
    rw [PadDevice.see, if_neg hpins, if_pos rfl]
  constructor
  · change ((b.moved .clkh).moved .clkl).pad p = _
    rw [moved_pad rfl, moved_pad rfl]
    exact (hsee _ .low).trans (congrArg (PadDevice.seeClock b.params.edge · .low) (hsee _ .high))
  · exact played_mask_of_no_smp (by simp [pulseClk]) b

/-- A sample leaves the pads alone, keeps the mask clean and writes the level pad p shows. -/
theorem moved_smp (b : Bench) (p : Pad) (i : Fin 12) :
    (b.moved (.smp p (BitVec.ofNat 4 i.val))).pad p = b.pad p ∧
      (maskClean (b.core.mask p) → maskClean ((b.moved (.smp p (BitVec.ofNat 4 i.val))).core.mask p)) ∧
      ∀ k, k < 16 → ((b.moved (.smp p (BitVec.ofNat 4 i.val))).core.mask p).getLsbD k =
        if k = i.val then decide ((b.pad p).line b.params = .low) else (b.core.mask p).getLsbD k := by
  have heffect : effect (.smp p (BitVec.ofNat 4 i.val)) b.lines = sampleBit p i b.lines := effect_smp_ofNat p i b.lines
  refine ⟨?_, fun hclean => ?_, fun k hk => ?_⟩
  · rw [moved_pad (by rw [heffect, sampleBit_trace]; rfl)]
    rfl
  · rw [moved_mask, heffect]
    exact sampleBit_maskClean i (by rwa [lines_mask])
  · rw [moved_mask, heffect, getLsbD_sampleBit p i _ hk, lines_nextLevel, lines_mask]

/-! ## Along the samples -/

/-- c is where a decode of pad p that began in b stands after its (n + 1)-th sample: the pad is at position n, and the
buttons up to n are in the mask. -/
structure BenchSampled (p : Pad) (n : Nat) (b c : Bench) : Prop where
  frame : BenchFrame p b c
  pad : c.pad p = .shifted (b.pad p).buttons n
  clean : maskClean (c.core.mask p)
  bits : ∀ k, k ≤ n → (c.core.mask p).getLsbD k = (b.pad p).buttons.getLsbD k

/-- A sample, where the pad has come to its position. -/
theorem BenchFrame.sample {p : Pad} {b c : Bench} (h : BenchFrame p b c) (i : Fin 12)
    (hpad : c.pad p = .shifted (b.pad p).buttons i.val) (hclean : maskClean (c.core.mask p))
    (hbits : ∀ k, k < i.val → (c.core.mask p).getLsbD k = (b.pad p).buttons.getLsbD k) :
    BenchSampled p i.val b (c.moved (.smp p (BitVec.ofNat 4 i.val))) := by
  have hi := i.isLt
  obtain ⟨hsame, hkeeps, hwrites⟩ := moved_smp c p i
  refine ⟨h.moved (.smp i), hsame.trans hpad, hkeeps hclean, fun k hk => ?_⟩
  rw [hwrites k (by omega)]
  by_cases hki : k = i.val
  · subst hki
    rw [if_pos rfl, hpad, Bool.eq_iff_iff, decide_eq_true_iff]
    exact line_shifted c.params _ (by omega)
  · rw [if_neg hki]
    exact hbits k (by omega)

theorem benchSampled_zero {p : Pad} {b : Bench} (hclean : maskClean (b.core.mask p)) (hclk : (b.pad p).clk = .low) :
    BenchSampled p 0 b (b.played (samplingOps p 0)) := by
  obtain ⟨hpad, hmask⟩ := played_pulseStb b p
  exact ((BenchFrame.refl p b).played (pinOp_pulseStb p)).sample 0 (hpad.trans (seeStrobe_pulse hclk))
    (hmask.symm ▸ hclean) nofun

/-- A clock pulse and a sample more. -/
theorem BenchSampled.succ {p : Pad} {n : Nat} {b c : Bench} (h : BenchSampled p n b c) (hn : n + 1 < 12)
    (hpins : b.core.cfg.pinClk ≠ b.core.cfg.pinStb) :
    BenchSampled p (n + 1) b (c.played (shiftAndSample p (BitVec.ofNat 4 (n + 1)))) := by
  obtain ⟨hpad, hmask⟩ := played_pulseClk (b := c) (h.frame.cfg.symm ▸ hpins) p
  refine (h.frame.played (pinOp_pulseClk p)).sample ⟨n + 1, hn⟩ ?_ (hmask.symm ▸ h.clean) fun k hk => ?_
  · rw [hpad, h.pad, seeClock_pulse]
  · rw [hmask]
    exact h.bits k (Nat.le_of_lt_succ hk)

theorem benchSampled {p : Pad} {b : Bench} (hpins : b.core.cfg.pinClk ≠ b.core.cfg.pinStb)
    (hclean : maskClean (b.core.mask p)) (hclk : (b.pad p).clk = .low) {n : Nat} (hn : n < 12) :
    BenchSampled p n b (b.played (samplingOps p n)) := by
  induction n with
  | zero => exact benchSampled_zero hclean hclk
  | succ n ih =>
    rw [samplingOps_succ, Bench.played_append]
    exact (ih (by omega)).succ hn hpins

/-! ## The decode as a whole -/

theorem pinClk_ne_pinStb {c : Config} (h : c.accepted = true) : c.pinClk ≠ c.pinStb := by
  have hwf : c.wf = true := (Bool.and_eq_true_iff.mp h).1
  have hpins := (pinsDistinct_iff c).mp ((wf_iff c).mp hwf).1
  intro heq
  simp [heq] at hpins

/-- A clean mask with the buttons in its low bits is the number of the buttons. -/
theorem toNat_eq_of_clean_bits {m : Mask} {buttons : BitVec 12} (hclean : maskClean m)
    (hbits : ∀ k, k ≤ 11 → m.getLsbD k = buttons.getLsbD k) : m.toNat = buttons.toNat := by
  apply Nat.eq_of_testBit_eq
  intro k
  by_cases hk : k ≤ 11
  · exact hbits k hk
  · have hle : 2 ^ 12 ≤ 2 ^ k := Nat.pow_le_pow_right (by omega) (by omega)
    have hm : m.toNat < 2 ^ k := (toNat_lt_of_maskClean hclean).trans_le hle
    have hb : buttons.toNat < 2 ^ k := buttons.isLt.trans_le hle
    rw [Nat.testBit_lt_two_pow hm, Nat.testBit_lt_two_pow hb]

/-- The trailing pulse, where there is one, writes no mask. -/
theorem played_trailingPulse_mask (tc : Bool) (b : Bench) (p : Pad) :
    (b.played (trailingPulse tc)).core.mask p = b.core.mask p :=
  played_mask_of_no_smp (by cases tc <;> simp [trailingPulse, pulseClk]) b

/-- Settles O52: the decode runs to its end on the bench, and its twelve samples put the buttons into the mask. -/
theorem decodeOnTheBenchReadsTheButtons : Obligations.DecodeOnTheBenchReadsTheButtons := by
  intro tc p b hm hacc hfit hclean hclk
  have hsampled := benchSampled (pinClk_ne_pinStb hacc) hclean hclk (n := 11) (by omega)
  have hframe : BenchFrame p b (b.played (decodeOps tc p)) := (BenchFrame.refl p b).played (pinOp_decodeOps tc p)
  refine ⟨_, benchExecAll_pinOps (pinOp_decodeOps tc p) hm (by rwa [length_decodeOps]), ?_, hframe.mask_other⟩
  rw [decodeOps_eq, Bench.played_append, played_trailingPulse_mask]
  exact toNat_eq_of_clean_bits hsampled.clean hsampled.bits

end Sys2Proof.Machine
end

section
/-! Reset and the cycle boundaries (70_reset_and_hazards.md R240, R256): what reset leaves in every field, and the event
that ends TRACE where a cycle of the reference micro-program begins. -/

namespace Sys2Proof.Machine

/-! ## Reset (R240) -/

/-- Settles O5: each register is the field that reset writes. -/
theorem resetLeavesEveryFieldAtItsValue : Obligations.ResetLeavesEveryFieldAtItsValue := by
  intro c e
  have hpins : ∀ role, (State.resetWith c e).pinMode role = .unconfigured := pinModesAreWrittenByInitOnly.1 c e
  have hmasks : ∀ p, (State.resetWith c e).mask p = 0x0000#16 := by
    intro p
    cases p <;> rfl
  exact ⟨rfl, rfl, rfl, rfl, hpins, hmasks, rfl, rfl, rfl, rfl, rfl, rfl, rfl, rfl⟩

theorem resetWith_inv (c : Config) (e : Env) : Inv (State.resetWith c e) where
  initializing_is_reset _ := rfl
  polling_is_configured := nofun
  polling_below_limit := nofun
  ended_has_reason := ⟨nofun, fun hreason => absurd rfl hreason⟩
  exit_matches := rfl
  cancel_closes := nofun
  masks_clean := ⟨maskHighBitsStayZero.1 c e .pad0, maskHighBitsStayZero.1 c e .pad1⟩
  ended_traced := nofun

/-- Settles O44: State.reset is one of the reset states. -/
theorem resetMeetsTheInvariant : Obligations.ResetMeetsTheInvariant :=
  ⟨resetWith_inv, resetWith_inv _ _⟩

/-! ## What stands at which address of the reference micro-program (R180) -/

theorem getLast?_pollCycleOps (tc : Bool) (sm : SyncMode) : (pollCycleOps tc sm).getLast? = some .wait := by
  simp [pollCycleOps]

/-- Before the closing jump stands WAIT. -/
theorem refRom_wait (tc : Bool) (sm : SyncMode) :
    (refRom tc sm)[(pollCycleOps tc sm).length]? = some (encode .wait) := by
  have hlen := length_pollCycleOps tc sm
  calc (refRom tc sm)[(pollCycleOps tc sm).length]?
    _ = (refRom tc sm)[1 + ((pollCycleOps tc sm).length - 1)]? := by
      rw [Nat.add_sub_cancel' (by omega : 1 ≤ (pollCycleOps tc sm).length)]
    _ = ((pollCycleOps tc sm).map encode)[(pollCycleOps tc sm).length - 1]? := refRom_cycle tc sm (by omega)
    _ = some (encode .wait) := by
      rw [List.getElem?_map, ← List.getLast?_eq_getElem?, getLast?_pollCycleOps, Option.map_some]

section
variable {s t : State} {i : Instr} {w : Word}

theorem RunsReference.length_eq_cycle (h : RunsReference s) :
    s.cfg.rom.length = (pollCycleOps s.cfg.trailingClock s.cfg.syncMode).length + 2 :=
  (congrArg List.length h.rom_eq).trans (length_refRom_eq_cycle ..)

theorem RunsReference.fetch_jump (h : RunsReference s) (hu : s.upc.toNat + 1 = s.cfg.rom.length) :
    s.cfg.rom[s.upc.toNat]? = some (encode (.jmp 1#12)) := by
  have hupc : s.upc.toNat = (pollCycleOps s.cfg.trailingClock s.cfg.syncMode).length + 1 := by
    have := h.length_eq_cycle
    omega
  rw [hupc, h.rom_eq, refRom_last]

theorem RunsReference.fetch_wait (h : RunsReference s) (hu : s.upc.toNat + 2 = s.cfg.rom.length) :
    s.cfg.rom[s.upc.toNat]? = some (encode .wait) := by
  have hupc : s.upc.toNat = (pollCycleOps s.cfg.trailingClock s.cfg.syncMode).length := by
    have := h.length_eq_cycle
    omega
  rw [hupc, h.rom_eq, refRom_wait]

/-- Between INIT and the closing jump stands no jump. -/
theorem RunsReference.fetch_cycle (h : RunsReference s) (hfirst : 1 ≤ s.upc.toNat)
    (hu : s.upc.toNat + 1 < s.cfg.rom.length) :
    ∃ j, PollingOp j ∧ s.cfg.rom[s.upc.toNat]? = some (encode j) := by
  obtain ⟨k, hk⟩ := Nat.exists_eq_add_of_le hfirst
  have hlt : k < (pollCycleOps s.cfg.trailingClock s.cfg.syncMode).length := by
    have := h.length_eq_cycle
    omega
  refine ⟨_, pollingOp_pollCycleOps _ _ _ (List.getElem_mem hlt), ?_⟩
  rw [hk, h.rom_eq, refRom_cycle _ _ hlt, List.getElem?_map, List.getElem?_eq_getElem hlt, Option.map_some]

/-- Where the word of a micro-op stands, that micro-op is decoded. -/
theorem eq_of_fetched {j : Instr} (hj : s.cfg.rom[s.upc.toNat]? = some (encode j)) (hwf : j.wf = true)
    (hw : s.cfg.rom[s.upc.toNat]? = some w) (hd : decode w = .ok i) : i = j := by
  obtain rfl : w = encode j := Option.some.inj (hw.symm.trans hj)
  exact Except.ok.inj (hd.symm.trans (decodeOfEncodeIsTheInstruction j hwf))

/-! ## The steps of the reference micro-program, by their address -/

/-- How the reference micro-program goes from s to a state t that polls: by INIT, by the closing jump, by the WAIT
before it, or by another micro-op of the cycle. -/
inductive CycleMove (s t : State) : Prop where
  | init (hupc : t.upc.toNat = 1) (htrace : t.trace.getLast? = some (.sinkInit .ok))
  | jump (hm : s.mode = .polling) (hlast : s.upc.toNat + 1 = s.cfg.rom.length) (hupc : t.upc.toNat = 1)
      (htrace : t.trace = s.trace)
  | wait (htrace : t.trace.getLast? = some (.delay s.cfg.cycleDelay))
  | inside (hfirst : 1 ≤ s.upc.toNat) (hupc : t.upc.toNat = s.upc.toNat + 1)
      (hmore : s.upc.toNat + 2 < s.cfg.rom.length)

/-- INIT leads to address 1 and opens the sink last (R160). -/
theorem RunsReference.cycleMove_initializing (h : RunsReference s) (hm : s.mode = .initializing)
    (hx : exec i s = .next t) (ht : t.mode = .polling) : CycleMove s t := by
  have hupc : s.upc.toNat = 0 := congrArg BitVec.toNat (h.upc_initializing hm)
  obtain ⟨rfl, -, -, hg, hs⟩ := exec_enters_polling hx (by simp [ht]) (by simp [ht, hm])
  refine .init ?_ ?_
  · rw [exec_toNat_upc (i := .init) nofun hx (by simp [ht]), hupc]
  · obtain ⟨-, a, rfl⟩ := exec_next_effect hx
    change (initialise s).trace.getLast? = _
    rw [initialise_ok hg hs, List.getLast?_concat]

/-- In POLLING the address decides: the jump at the last one, WAIT before it, and no jump before that. -/
theorem RunsReference.cycleMove_polling (h : RunsReference s) (hm : s.mode = .polling)
    (hw : s.cfg.rom[s.upc.toNat]? = some w) (hd : decode w = .ok i) (hx : exec i s = .next t)
    (ht : t.mode = .polling) : CycleMove s t := by
  obtain ⟨hfirst, hlt⟩ := h.upc_polling hm
  by_cases hlast : s.upc.toNat + 1 = s.cfg.rom.length
  · obtain rfl := eq_of_fetched (h.fetch_jump hlast) rfl hw hd
    obtain rfl : { s with upc := 1#12 } = t := Host.Outcome.next.inj ((exec_jmp 1#12 hm).symm.trans hx)
    exact .jump hm hlast rfl rfl
  obtain ⟨j, hj, hfetch⟩ := h.fetch_cycle hfirst (by omega)
  obtain rfl := eq_of_fetched hfetch hj.wf hw hd
  have hupc : t.upc.toNat = s.upc.toNat + 1 := exec_toNat_upc hj.ne_jmp hx (by simp [ht])
  by_cases hwait : s.upc.toNat + 2 = s.cfg.rom.length
  · obtain rfl := eq_of_fetched (h.fetch_wait hwait) rfl hw hd
    obtain ⟨-, a, rfl⟩ := exec_next_effect hx
    exact .wait List.getLast?_concat
  · exact .inside hfirst hupc (by omega)

theorem RunsReference.cycleMove (h : RunsReference s) (hstep : step s = .next t) (ht : t.mode = .polling) :
    CycleMove (passBoundary s) t := by
  obtain ⟨-, hm, ⟨-, rfl⟩ | ⟨-, w, i, hw, hd, hx⟩⟩ := step_eq_next hstep
  · cases ht
  have hpass : RunsReference (passBoundary s) := h
  cases hmode : s.mode with
  | terminated => exact absurd hmode hm
  | initializing => exact hpass.cycleMove_initializing hmode hx ht
  | polling => exact hpass.cycleMove_polling hmode hw hd hx ht

/-! ## The boundary between two cycles (R256) -/

/-- What ends TRACE before the first strobe of a cycle, and before the closing jump. -/
def BoundaryTraced (s : State) : Prop :=
  (s.mode = .polling → s.upc = 1#12 →
    s.trace.getLast? = some (.delay s.cfg.cycleDelay) ∨ s.trace.getLast? = some (.sinkInit .ok)) ∧
  (s.mode = .polling → s.upc.toNat = s.cfg.rom.length - 1 → s.trace.getLast? = some (.delay s.cfg.cycleDelay))

/-- INIT and the jump lead to address 1, WAIT to the jump, and the other micro-ops to neither. -/
theorem CycleMove.boundaryTraced (h : CycleMove s t) (hlen : 4 ≤ s.cfg.rom.length) (hcfg : t.cfg = s.cfg)
    (hs : BoundaryTraced s) : BoundaryTraced t := by
  rw [BoundaryTraced, hcfg]
  cases h with
  | init hupc htrace => exact ⟨fun _ _ => .inr htrace, fun _ hu => by omega⟩
  | jump hm hlast hupc htrace =>
    have hdelay := hs.2 hm (by omega)
    exact ⟨fun _ _ => .inl (htrace ▸ hdelay), fun _ hu => by omega⟩
  | wait htrace => exact ⟨fun _ _ => .inl htrace, fun _ _ => htrace⟩
  | inside hfirst hupc hmore =>
    refine ⟨fun _ hu => ?_, fun _ hu => by omega⟩
    have hone : t.upc.toNat = 1 := congrArg BitVec.toNat hu
    omega

end

/-- Settles O50: a state that polls is reached by INIT or by a micro-op of the cycle, and each keeps the boundary. -/
theorem delayStandsBetweenConsecutiveCycles : Obligations.DelayStandsBetweenConsecutiveCycles := by
  refine ⟨fun _ _ => ⟨nofun, nofun⟩, fun s t h hs hstep => ?_⟩
  have hcfg : t.cfg = s.cfg := step_keeps_cfg hstep
  have hlen : 4 ≤ s.cfg.rom.length := h.length_eq.symm ▸ Nat.le_add_left 4 _
  have hkept : t.mode = .polling → BoundaryTraced t := fun ht => (h.cycleMove hstep ht).boundaryTraced hlen hcfg hs
  exact ⟨fun ht => (hkept ht).1 ht, fun ht => (hkept ht).2 ht⟩

end Sys2Proof.Machine
end
